-- ==== Sys2Proof/Word.lean ====
section
/-! DEFINITION. The widths of the block's values (00_scope.md R10). -/

namespace Sys2Proof

/-- A byte, an unsigned 8-bit value (00_scope.md R10). -/
abbrev Byte := BitVec 8

/-- A 16-bit value: `u16` of a telemetry code, or the bits of the `s16` setpoint (00_scope.md R10). -/
abbrev Half := BitVec 16

end Sys2Proof
end

