-- ==== Sys2Proof/Config.lean ====
section
/-! DEFINITION. The parameters of 00_scope.md R9 as data. The values themselves (the default response layout, the reset
parameters) and the condition on a layout stand in Machine/Layout.lean. `LATENCY` is not represented, as
70_reset_and_hazards.md R238 asks (log 18). -/

namespace Sys2Proof

/-- `CMD_LEN`: the length of a command or query frame (00_scope.md R9). -/
abbrev cmdLen : Nat := 16

/-- `RSP_LEN`: the length of a response frame (00_scope.md R9). -/
abbrev rspLen : Nat := 32

/-- The least value `MAX_IN_LEN` may have (00_scope.md R9, 92_eei_decisions.md D23). -/
abbrev leastMaxInLen : Nat := 33

/-- `RESP_LAYOUT`: the sixteen entries of 30_encoding.md R86, each the index of a field in the response frame. -/
structure RespLayout where
  responseType         : Nat
  capabilityFlags      : Nat
  mode                 : Nat
  fan                  : Nat
  tempSetpoint         : Nat
  inletTemp            : Nat
  coilTempA            : Nat
  coilTempB            : Nat
  outsideTemp          : Nat
  timerStart           : Nat
  timerStop            : Nat
  modeFlags            : Nat
  operationFlags       : Nat
  errorCodeLo          : Nat
  protectionCodeLo     : Nat
  commModuleErrorFlags : Nat
deriving DecidableEq, Repr

/-- The open parameters a machine is built with and keeps: `RESP_LAYOUT` and `MAX_IN_LEN` (00_scope.md R9; log 2). -/
structure Params where
  respLayout : RespLayout
  maxInLen   : Nat
deriving DecidableEq, Repr

/-- What a reset loads: `RESET_VARIANT`, `TEMP_MIN` and `TEMP_MAX` (70_reset_and_hazards.md R230). -/
structure ResetParams where
  variant : BitVec 1
  tempMin : Byte
  tempMax : Byte
deriving DecidableEq, Repr

end Sys2Proof
end

