-- ==== Sys2Proof/Syntax.lean ====
section
/-! DEFINITION. The request as the host presents it, the eight operations, and the names of modes, fans, variants, semantic
fields and command types. -/

namespace Sys2Proof

/-- A request: the input ports of 10_state.md R28. `IN_LEN` is the length of `inBuf`. -/
structure Request where
  req         : BitVec 8
  opdMode     : BitVec 3
  opdFan      : BitVec 3
  opdSetpoint : BitVec 16
  inBuf       : List Byte
deriving DecidableEq, Repr

/-- The eight operations of 30_encoding.md R61, each with the inputs 10_state.md R28 lists for it. -/
inductive Instr where
  | encq
  | encset (mode fan : BitVec 3) (setpoint : BitVec 16)
  | enclock (mode fan : BitVec 3) (setpoint : BitVec 16)
  | encunlock (mode fan : BitVec 3) (setpoint : BitVec 16)
  | decode (buf : List Byte)
  | cksum (buf : List Byte)
  | verify (buf : List Byte)
  | offsetof (field : BitVec 4)
deriving DecidableEq, Repr

/-- The two protocol variants (00_scope.md R2). -/
inductive Variant where
  | a
  | b
deriving DecidableEq, Repr

/-- The seven modes that have a protocol byte (30_encoding.md R65). -/
inductive KnownMode where
  | off
  | autoPrimary
  | autoAlt
  | cool
  | dry
  | heat
  | fanOnly
deriving DecidableEq, Repr

/-- The type Mode of 43_decoder.md R161: a named mode, or `Unknown(x)` with the raw byte. -/
inductive Mode where
  | known (m : KnownMode)
  | unknown (raw : Byte)
deriving DecidableEq, Repr

/-- The five fan settings that have a protocol byte (30_encoding.md R66). -/
inductive KnownFan where
  | auto
  | high
  | medium
  | mediumLow
  | low
deriving DecidableEq, Repr

/-- The type Fan of 43_decoder.md R162: a named fan setting, or `Unknown(x)` with the raw byte. -/
inductive Fan where
  | known (f : KnownFan)
  | unknown (raw : Byte)
deriving DecidableEq, Repr

/-- The semantic fields of 30_encoding.md R62. -/
inductive SemField where
  | mode
  | fan
  | tempSetpoint
  | timer1
  | timer2
  | modeFlags
deriving DecidableEq, Repr

/-- The command types of 30_encoding.md R68. -/
inductive CommandType where
  | query
  | set
  | lock
  | unlock
deriving DecidableEq, Repr

/-- The `<mode>` operand of an assembler line (30_encoding.md R70): a name of R65, or `Unknown(code n)` as
95_test_vectors.md writes it (log 17). -/
inductive AsmMode where
  | name (m : KnownMode)
  | unknownCode (n : BitVec 3)
deriving DecidableEq, Repr

/-- The `<fan>` operand of an assembler line (30_encoding.md R70; log 17). -/
inductive AsmFan where
  | name (f : KnownFan)
  | unknownCode (n : BitVec 3)
deriving DecidableEq, Repr

/-- The `<field>` operand of an assembler line: a field name of 30_encoding.md R62 or a number 0..15 (R70). -/
inductive AsmField where
  | name (f : SemField)
  | number (n : Nat)
deriving DecidableEq, Repr

/-- The assembler's lines: the eight forms of 30_encoding.md R70 and the pseudo-instruction `ENCCMD` of R71. `t` is the
integer as written. -/
inductive AsmLine where
  | encq
  | encset (mode : AsmMode) (fan : AsmFan) (t : Int)
  | enclock (mode : AsmMode) (fan : AsmFan) (t : Int)
  | encunlock (mode : AsmMode) (fan : AsmFan) (t : Int)
  | decode (bytes : List Byte)
  | cksum (bytes : List Byte)
  | verify (bytes : List Byte)
  | offsetof (field : AsmField)
  | enccmd (ct : CommandType) (mode : AsmMode) (fan : AsmFan) (t : Int)
deriving DecidableEq, Repr

end Sys2Proof
end

