-- ==== Sys2Proof/WellFormed.lean ====
section
/-! DEFINITION. Which operations can be presented to a block: every operand code is a legal input of its width, so the one
check is the length of an input buffer (10_state.md R28: `IN_LEN` in 0..`MAX_IN_LEN`). -/

namespace Sys2Proof

/-- The operation can be presented to a block whose `MAX_IN_LEN` is `maxInLen` (10_state.md R28, 92_eei_decisions.md D23). -/
def Instr.wellFormed (maxInLen : Nat) : Instr → Bool
  | .encq => true
  | .encset _ _ _ => true
  | .enclock _ _ _ => true
  | .encunlock _ _ _ => true
  | .decode buf => decide (buf.length ≤ maxInLen)
  | .cksum buf => decide (buf.length ≤ maxInLen)
  | .verify buf => decide (buf.length ≤ maxInLen)
  | .offsetof _ => true

end Sys2Proof
end

