-- ==== Sys2Proof/Decode.lean ====
section
/-! DEFINITION. Request decoding (30_encoding.md R60 to R64), the encoder of the eight operations, and the assembler's lines
(R70, R71). -/

namespace Sys2Proof

/-- Why a request word is illegal (30_encoding.md R63). Both reasons give `IllegalRequest`. -/
inductive DecodeReject where
  /-- `OP` is 0x8 to 0xF. -/
  | reservedOp
  /-- `FIELD` is not 0 and `OP` is not 0x7. -/
  | strayField
deriving DecidableEq, Repr

/-- `OP`, bits 3..0 of the request word (30_encoding.md R60). -/
def reqOp (req : BitVec 8) : BitVec 4 := req.extractLsb' 0 4

/-- `FIELD`, bits 7..4 of the request word (30_encoding.md R60). -/
def reqField (req : BitVec 8) : BitVec 4 := req.extractLsb' 4 4

/-- Request decoding, a total function of `REQ` applied before any operand is read (30_encoding.md R64); an operation takes
only the inputs 10_state.md R28 lists for it. -/
def decode (r : Request) : Except DecodeReject Instr :=
  let op := reqOp r.req
  let field := reqField r.req
  if 8 ≤ op.toNat then .error .reservedOp
  else if op ≠ 7#4 ∧ field ≠ 0#4 then .error .strayField
  else match op.toNat with
    | 0 => .ok .encq
    | 1 => .ok (.encset r.opdMode r.opdFan r.opdSetpoint)
    | 2 => .ok (.enclock r.opdMode r.opdFan r.opdSetpoint)
    | 3 => .ok (.encunlock r.opdMode r.opdFan r.opdSetpoint)
    | 4 => .ok (.decode r.inBuf)
    | 5 => .ok (.cksum r.inBuf)
    | 6 => .ok (.verify r.inBuf)
    | 7 => .ok (.offsetof field)
    | _ => .error .reservedOp

/-- The request whose word is `req` and whose operand inputs are all zero, with an empty input buffer. -/
def bareRequest (req : BitVec 8) : Request :=
  { req := req, opdMode := 0#3, opdFan := 0#3, opdSetpoint := 0#16, inBuf := [] }

/-- A request with the three operand inputs set (30_encoding.md R70). -/
def commandRequest (req : BitVec 8) (mode fan : BitVec 3) (setpoint : BitVec 16) : Request :=
  { bareRequest req with opdMode := mode, opdFan := fan, opdSetpoint := setpoint }

/-- A request with its input buffer set (30_encoding.md R70). -/
def bufferRequest (req : BitVec 8) (buf : List Byte) : Request :=
  { bareRequest req with inBuf := buf }

/-- The encoder: the request of each operation (30_encoding.md R61, R70); inputs the operation ignores are zero, the
model's choice (log 17). -/
def encode : Instr → Request
  | .encq => bareRequest 0x00#8
  | .encset m f t => commandRequest 0x01#8 m f t
  | .enclock m f t => commandRequest 0x02#8 m f t
  | .encunlock m f t => commandRequest 0x03#8 m f t
  | .decode buf => bufferRequest 0x04#8 buf
  | .cksum buf => bufferRequest 0x05#8 buf
  | .verify buf => bufferRequest 0x06#8 buf
  | .offsetof field => bareRequest (field ++ 0x7#4)

/-- The request of an opcode-table word: the table gives the 8 bits of `REQ` and no operand bits, so every operand input is
zero and the input buffer is empty (log 5). -/
def tableRequest (w : Nat) : Request := bareRequest (BitVec.ofNat 8 w)

/-- The operation the decoder reads from an opcode-table word; a word that does not fit the 8 bits of `REQ`
(30_encoding.md R60) is none. -/
def decodeTableWord (nbits w : Nat) : Option Instr :=
  if nbits = 8 ∧ w < 256 then
    match decode (tableRequest w) with
    | .ok i => some i
    | .error _ => none
  else none

/-! ### Assembler lines (30_encoding.md R70, R71) -/

/-- The `OPD_MODE` code of a mode name (30_encoding.md R65). -/
def KnownMode.code : KnownMode → BitVec 3
  | .off => 0
  | .autoPrimary => 1
  | .autoAlt => 2
  | .cool => 3
  | .dry => 4
  | .heat => 5
  | .fanOnly => 6

/-- The `OPD_FAN` code of a fan name (30_encoding.md R66). -/
def KnownFan.code : KnownFan → BitVec 3
  | .auto => 0
  | .high => 1
  | .medium => 2
  | .mediumLow => 3
  | .low => 4

/-- The `FIELD` id of a semantic field (30_encoding.md R62). -/
def SemField.id : SemField → BitVec 4
  | .mode => 0
  | .fan => 1
  | .tempSetpoint => 2
  | .timer1 => 3
  | .timer2 => 4
  | .modeFlags => 5

/-- The code of a `<mode>` operand; `Unknown` has the one code 7 (30_encoding.md R65). -/
def AsmMode.code : AsmMode → Option (BitVec 3)
  | .name m => some m.code
  | .unknownCode n => if n = 7#3 then some n else none

/-- The code of a `<fan>` operand; `Unknown` has the codes 5, 6 and 7 (30_encoding.md R66). -/
def AsmFan.code : AsmFan → Option (BitVec 3)
  | .name f => some f.code
  | .unknownCode n => if 5 ≤ n.toNat then some n else none

/-- The `<t>` operand: an integer in −32768..32767 (30_encoding.md R70). -/
def asmSetpoint (t : Int) : Option (BitVec 16) :=
  if -32768 ≤ t ∧ t ≤ 32767 then some (BitVec.ofInt 16 t) else none

/-- The `<field>` operand: a name or a number 0..15 (30_encoding.md R70). -/
def AsmField.id : AsmField → Option (BitVec 4)
  | .name f => some f.id
  | .number n => if n < 16 then some (BitVec.ofNat 4 n) else none

/-- A command line's request, with its operands' codes (30_encoding.md R70). -/
def asmCommand (req : BitVec 8) (mode : AsmMode) (fan : AsmFan) (t : Int) : Option Request :=
  match mode.code, fan.code, asmSetpoint t with
  | some m, some f, some s => some (commandRequest req m f s)
  | _, _, _ => none

/-- The request of an assembler line, or none where the assembler rejects it (30_encoding.md R70, R71). -/
def assemble : AsmLine → Option Request
  | .encq => some (bareRequest 0x00#8)
  | .encset m f t => asmCommand 0x01#8 m f t
  | .enclock m f t => asmCommand 0x02#8 m f t
  | .encunlock m f t => asmCommand 0x03#8 m f t
  | .decode bytes => some (bufferRequest 0x04#8 bytes)
  | .cksum bytes => some (bufferRequest 0x05#8 bytes)
  | .verify bytes => some (bufferRequest 0x06#8 bytes)
  | .offsetof field => field.id.map fun k => bareRequest (k ++ 0x7#4)
  | .enccmd .query _ _ _ => none
  | .enccmd .set m f t => asmCommand 0x01#8 m f t
  | .enccmd .lock m f t => asmCommand 0x02#8 m f t
  | .enccmd .unlock m f t => asmCommand 0x03#8 m f t

end Sys2Proof
end

