-- ==== Sys2Proof/Machine/Layout.lean ====
section
/-! DEFINITION. The layout tables: the variant layout of the command frame (41_layout.md R120), the default response layout
and the condition on any response layout (30_encoding.md R86, R87), and the parameters of the model's own reset. -/

namespace Sys2Proof.Machine

open Sys2Proof

/-- The variant a value of `CFG_VARIANT` names: 0 = A, 1 = B (10_state.md R23). -/
def variantOf (v : BitVec 1) : Variant := if v = 0#1 then .a else .b

/-- `LAYOUT(v, field)`: the command-frame index of a semantic field, or none for "no mapping" (41_layout.md R120). -/
def layout (v : Variant) (f : SemField) : Option Nat :=
  match f, v with
  | .mode, .a => some 11
  | .mode, .b => some 6
  | .fan, _ => some 7
  | .tempSetpoint, _ => some 8
  | .timer1, _ => some 9
  | .timer2, _ => some 10
  | .modeFlags, .a => none
  | .modeFlags, .b => some 12

/-- The default `RESP_LAYOUT` of 30_encoding.md R86 (log 13). -/
def defaultRespLayout : RespLayout :=
  { responseType := 1, capabilityFlags := 7, mode := 8, fan := 9, tempSetpoint := 10, inletTemp := 11, coilTempA := 12,
    coilTempB := 13, outsideTemp := 14, timerStart := 17, timerStop := 18, modeFlags := 20, operationFlags := 21,
    errorCodeLo := 22, protectionCodeLo := 24, commModuleErrorFlags := 26 }

/-- The index of `currentReading`, which is not part of `RESP_LAYOUT` (30_encoding.md R86, R87). -/
def currentReadingIndex : Nat := 15

/-- Every index a layout places a field byte at: its sixteen entries and the two high bytes (30_encoding.md R87). -/
def respIndices (rl : RespLayout) : List Nat :=
  [rl.responseType, rl.capabilityFlags, rl.mode, rl.fan, rl.tempSetpoint, rl.inletTemp, rl.coilTempA, rl.coilTempB,
   rl.outsideTemp, rl.timerStart, rl.timerStop, rl.modeFlags, rl.operationFlags, rl.errorCodeLo, rl.errorCodeLo + 1,
   rl.protectionCodeLo, rl.protectionCodeLo + 1, rl.commModuleErrorFlags]

/-- The conditions any `RESP_LAYOUT` satisfies: every index in 1..29 and not 15, no two fields sharing one, the high bytes
counted as indices of their fields (30_encoding.md R87; log 16). -/
def respLayoutOk (rl : RespLayout) : Bool :=
  (respIndices rl).all (fun k => decide (1 ≤ k) && decide (k ≤ 29) && decide (k ≠ currentReadingIndex))
    && decide (respIndices rl).Nodup

/-- The conditions on the parameters: a legal layout and `MAX_IN_LEN` at least 33 (00_scope.md R9, 30_encoding.md R87). -/
def paramsOk (p : Params) : Bool :=
  respLayoutOk p.respLayout && decide (leastMaxInLen ≤ p.maxInLen)

/-- The parameters of `State.reset`: the default layout, and the least `MAX_IN_LEN` the spec admits (log 2). -/
def defaultParams : Params := { respLayout := defaultRespLayout, maxInLen := leastMaxInLen }

/-- What `State.reset` loads: Variant A, the spec's default (70_reset_and_hazards.md R230; log 4), and the whole byte range as
setpoint bound, a DESIGN CHOICE (log 3). -/
def defaultResetParams : ResetParams := { variant := 0#1, tempMin := 0x00#8, tempMax := 0xFF#8 }

end Sys2Proof.Machine
end

