-- ==== Sys2Proof/Machine/State.lean ====
section
/-! DEFINITION. The block's state: its three configuration registers (10_state.md R20), the parameters it was built with, and
its ports; the telemetry record, the responses, the faults and refusals; the state after reset. -/

namespace Sys2Proof.Machine

open Sys2Proof

/-- The configuration registers `CFG_VARIANT`, `CFG_TEMP_MIN`, `CFG_TEMP_MAX` (10_state.md R23 to R26). -/
structure Cfg where
  variant : BitVec 1
  tempMin : Byte
  tempMax : Byte
deriving DecidableEq, Repr

/-- The telemetry record `OUT_TELEM` (43_decoder.md R160). -/
structure Telemetry where
  responseType         : Byte
  capabilityRaw        : Byte
  extTempSensor        : Bool
  swingSupported       : Bool
  mode                 : Mode
  fan                  : Fan
  tempSetpoint         : Byte
  inletTemp            : Byte
  coilTempA            : Byte
  coilTempB            : Byte
  outsideTemp          : Byte
  currentReading       : Byte
  currentMeasured      : Bool
  timerStart           : Byte
  timerStop            : Byte
  modeFlagsRaw         : Byte
  eco                  : Bool
  auxHeat              : Bool
  swing                : Bool
  vent                 : Bool
  operationFlagsRaw    : Byte
  waterPump            : Bool
  waterLock            : Bool
  errorCode            : Half
  protectionCode       : Half
  commModuleErrorFlags : Byte
deriving DecidableEq, Repr

/-- The error kinds of 60_exceptions.md R200. -/
inductive ErrKind where
  | wrongLength
  | badStartByte
  | badEndByte
  | checksumMismatch
  | unsupportedMode
  | unsupportedFan
  | temperatureOutOfRange
  | unsupportedField
  | illegalRequest
deriving DecidableEq, Repr

/-- The payload of a successful response: `OUT_FRAME`, `OUT_BYTE`, `OUT_BOOL` or `OUT_TELEM` (10_state.md R29). -/
inductive Payload where
  | frame (bytes : List Byte)
  | byte (b : Byte)
  | bool (b : Bool)
  | telem (t : Telemetry)
deriving DecidableEq, Repr

/-- A response, `Ok(payload)` or `Err(kind)` (00_scope.md R13): an error carries no payload (10_state.md R29,
60_exceptions.md R201). -/
inductive Response where
  | ok (p : Payload)
  | err (k : ErrKind)
deriving DecidableEq, Repr

/-- What the host presents to the block. -/
inductive HostInput where
  /-- One request (10_state.md R28). -/
  | request (r : Request)
  /-- A reset with the parameters it loads (70_reset_and_hazards.md R230, R235); `during` is the request that was being
  served when it arrived, if any, which ends with no response (R233). -/
  | reset (during : Option Request) (p : ResetParams)
deriving DecidableEq, Repr

/-- The state. `cfg` is the block's architectural state, all of it (10_state.md R20, R22). `params` is fixed for a machine
(log 2). `inputs` is what the host presents, oldest first, and `response` is the response port, none while no response is on
it (log 1). -/
structure State where
  cfg      : Cfg
  params   : Params
  inputs   : List HostInput
  response : Option Response
deriving DecidableEq, Repr

/-- Why the model stops with a fault. The spec says no rule of its own makes such an access (20_memory.md R41, R42;
93_implementation_defined.md I14; log 9). -/
inductive Fault where
  /-- Raised by `memRead` at an index outside the input buffer. Safe: 20_memory.md R41 asks for a fault, and only a response
  layout that breaks 30_encoding.md R87 reaches it. -/
  | readOutsideInput
  /-- Raised by `memWrite` at an index above 15. Safe: 20_memory.md R42 gives no such write a meaning; no encode rule makes
  one. -/
  | writeOutsideFrame
  /-- Raised by `outRead` at an index of the output frame that this request has not written. Safe: 20_memory.md R42 says the
  frame has no byte whose value comes from before the request; no encode rule reads one. -/
  | frameByteMissing
deriving DecidableEq, Repr

/-- Why the model refuses. -/
inductive Refusal where
  /-- Raised by an arm of `exec` that has no meaning yet; no arm does. Safe. -/
  | notModelled (mnemonic : String)
  /-- Raised by `DECODE`, `CKSUM` and `VERIFY` for an input buffer longer than `MAX_IN_LEN`: it cannot be presented, and a
  model refuses it (92_eei_decisions.md D23, 93_implementation_defined.md I12; log 8). Safe. -/
  | inputTooLong
deriving DecidableEq, Repr

/-- The registers a reset loads (70_reset_and_hazards.md R230). -/
def cfgOfReset (p : ResetParams) : Cfg := { variant := p.variant, tempMin := p.tempMin, tempMax := p.tempMax }

/-- The machine right after reset: the registers loaded, no request and no response pending
(70_reset_and_hazards.md R230 to R232; logs 2, 3, 4). -/
def State.reset : State :=
  { cfg := cfgOfReset defaultResetParams, params := defaultParams, inputs := [], response := none }

end Sys2Proof.Machine
end

