-- ==== Sys2Proof/Machine/Ops.lean ====
section
/-! DEFINITION. The operations the eight meanings share: raising an error and answering, the byte spaces IN and OUT, the
checksum, and a reset. -/

namespace Sys2Proof.Machine

open Sys2Proof

/-! ### Ending a request

The block has no exception entry and no return from one: raising an error ends the request with its kind on the response port
and changes nothing else (60_exceptions.md R202, R205, R206). -/

/-- How a request ends without a payload: an error kind raised (00_scope.md R12), or a stop of the model's own. -/
inductive Stop where
  | raise (k : ErrKind)
  | fault (r : Fault)
  | refuse (r : Refusal)
deriving DecidableEq, Repr

/-- `raise E` (00_scope.md R12). -/
def raise {α : Type} (k : ErrKind) : Except Stop α := .error (.raise k)

/-- The state with a response on the response port, in the place of the last one (10_state.md R29, R32). -/
def State.answer (s : State) (r : Response) : State := { s with response := some r }

/-- The end of a request: `Ok(payload)` or `Err(kind)` on the response port (00_scope.md R13), or a stop. -/
def finish (s : State) (x : Except Stop Payload) : Host.Outcome State Fault Refusal :=
  match x with
  | .ok p => .next (s.answer (.ok p))
  | .error (.raise k) => .next (s.answer (.err k))
  | .error (.fault r) => .fault r
  | .error (.refuse r) => .refused r

/-- `STATUS`, the number of a response's kind (60_exceptions.md R200). -/
def Response.status : Response → BitVec 4
  | .ok _ => 0x0
  | .err .wrongLength => 0x1
  | .err .badStartByte => 0x2
  | .err .badEndByte => 0x3
  | .err .checksumMismatch => 0x4
  | .err .unsupportedMode => 0x5
  | .err .unsupportedFan => 0x6
  | .err .temperatureOutOfRange => 0x7
  | .err .unsupportedField => 0x8
  | .err .illegalRequest => 0x9

/-- The output port `OUT_FRAME`, where present (10_state.md R29). -/
def Response.outFrame : Response → Option (List Byte)
  | .ok (.frame f) => some f
  | _ => none

/-- The output port `OUT_BYTE`, where present (10_state.md R29). -/
def Response.outByte : Response → Option Byte
  | .ok (.byte b) => some b
  | _ => none

/-- The output port `OUT_BOOL`, where present (10_state.md R29). -/
def Response.outBool : Response → Option Bool
  | .ok (.bool b) => some b
  | _ => none

/-- The output port `OUT_TELEM`, where present (10_state.md R29). -/
def Response.outTelem : Response → Option Telemetry
  | .ok (.telem t) => some t
  | _ => none

/-! ### IN, the input buffer -/

/-- An input buffer longer than `MAX_IN_LEN` cannot be presented: the model refuses it (92_eei_decisions.md D23; log 8). -/
def presented (s : State) (buf : List Byte) : Except Stop Unit :=
  if buf.length ≤ s.params.maxInLen then .ok () else .error (.refuse .inputTooLong)

/-- `MemRead(IN, i, 1)` (20_memory.md R41): a read outside the buffer faults. -/
def memRead (buf : List Byte) (i : Nat) : Except Stop Byte :=
  match buf[i]? with
  | some b => .ok b
  | none => .error (.fault .readOutsideInput)

/-! ### OUT, the output frame under construction

A list of cells in canonical form: addresses strictly rising, and an address not listed has not been written in this request
(20_memory.md R40, R42; log 10). -/

/-- The byte space OUT of one request. -/
abbrev Memory := List Host.Cell

/-- The canonical form: addresses strictly rising. An unlisted address reads as no value, so no entry can equal it. -/
def Memory.wf : Memory → Bool
  | [] => true
  | [_] => true
  | (a, _) :: (b, x) :: m => decide (a < b) && Memory.wf ((b, x) :: m)

/-- The byte at an address, or none where this request has not written it. -/
def Memory.read : Memory → Nat → Option Byte
  | [], _ => none
  | (a, b) :: m, i => if i = a then some b else Memory.read m i

/-- One byte written, in its place in the canonical form. -/
def Memory.write : Memory → Nat → Byte → Memory
  | [], i, v => [(i, v)]
  | (a, b) :: m, i, v =>
    if i < a then (i, v) :: (a, b) :: m
    else if i = a then (i, v) :: m
    else (a, b) :: Memory.write m i v

/-- `MemWrite(OUT, i, 1, v)` for 0 ≤ i ≤ 15 (20_memory.md R42). -/
def memWrite (out : Memory) (i : Nat) (v : Byte) : Except Stop Memory :=
  if i < cmdLen then .ok (out.write i v) else .error (.fault .writeOutsideFrame)

/-- The byte of the output frame at an index this request has written. -/
def outRead (out : Memory) (i : Nat) : Except Stop Byte :=
  match out.read i with
  | some b => .ok b
  | none => .error (.fault .frameByteMissing)

/-- A sequence of writes, in order. -/
def writeAll (out : Memory) : List Host.Cell → Except Stop Memory
  | [] => .ok out
  | (i, v) :: ws => do
    let out ← memWrite out i v
    writeAll out ws

/-- The bytes of the output frame at the given indices, in their order. -/
def readAll (out : Memory) : List Nat → Except Stop (List Byte)
  | [] => .ok []
  | i :: is => do
    let b ← outRead out i
    let bs ← readAll out is
    return b :: bs

/-! ### The checksum -/

/-- `Σ S`, the sum of the bytes as an integer (00_scope.md R11). -/
def byteSum (bs : List Byte) : Nat := (bs.map BitVec.toNat).sum

/-- `ck8(S) = 0xFF − (Σ S mod 256)` (40_checksum.md R100). -/
def ck8 (bs : List Byte) : Byte := BitVec.ofNat 8 (0xFF - byteSum bs % 256)

/-- `FrameCk(f)`, the checksum over every byte of a frame but the one at index N − 2 (40_checksum.md R101). -/
def frameCk (f : List Byte) : Byte := ck8 (f.take (f.length - 2) ++ f.drop (f.length - 1))

/-! ### Reset -/

/-- A reset: the three registers loaded, and no response pending (70_reset_and_hazards.md R230, R231). Inputs that the host
presents after it stay (log 7). -/
def loadReset (p : ResetParams) (s : State) : State := { s with cfg := cfgOfReset p, response := none }

end Sys2Proof.Machine
end

