-- ==== Sys2Proof/Machine/Checksum.lean ====
section
/-! DEFINITION. The checksum codec: CKSUM and VERIFY (40_checksum.md). -/

namespace Sys2Proof.Machine

open Sys2Proof

/-- `CKSUM`: the checksum of exactly the bytes given, of any length (40_checksum.md R103). -/
def execCksum (buf : List Byte) (s : State) : Host.Outcome State Fault Refusal :=
  finish s do
    presented s buf
    return .byte (ck8 buf)

/-- `VERIFY`: the stored checksum against the recomputed one; a buffer of fewer than two bytes has no checksum position
(40_checksum.md R104). -/
def execVerify (buf : List Byte) (s : State) : Host.Outcome State Fault Refusal :=
  finish s do
    presented s buf
    if buf.length < 2 then raise .wrongLength
    let stored ← memRead buf (buf.length - 2)
    return .bool (frameCk buf == stored)

end Sys2Proof.Machine
end

