-- ==== Sys2Proof/Machine/Operands.lean ====
section
/-! DEFINITION. The operand codes and protocol bytes of 30_encoding.md (R62, R65 to R68), the setpoint's check and byte, and the
decoder's byte maps (43_decoder.md R164, R165, R169). -/

namespace Sys2Proof.Machine

open Sys2Proof

/-- The mode an `OPD_MODE` code names; none for `Unknown` (30_encoding.md R65). -/
def modeOfCode (c : BitVec 3) : Option KnownMode :=
  match c.toNat with
  | 0 => some .off
  | 1 => some .autoPrimary
  | 2 => some .autoAlt
  | 3 => some .cool
  | 4 => some .dry
  | 5 => some .heat
  | 6 => some .fanOnly
  | _ => none

/-- The protocol byte of a mode (30_encoding.md R65). -/
def modeByte : KnownMode → Byte
  | .off => 0x00
  | .autoPrimary => 0x91
  | .autoAlt => 0x80
  | .cool => 0x88
  | .dry => 0x82
  | .heat => 0x84
  | .fanOnly => 0x81

/-- The fan setting an `OPD_FAN` code names; none for `Unknown` (30_encoding.md R66). -/
def fanOfCode (c : BitVec 3) : Option KnownFan :=
  match c.toNat with
  | 0 => some .auto
  | 1 => some .high
  | 2 => some .medium
  | 3 => some .mediumLow
  | 4 => some .low
  | _ => none

/-- The protocol byte of a fan setting (30_encoding.md R66). -/
def fanByte : KnownFan → Byte
  | .auto => 0x80
  | .high => 0x01
  | .medium => 0x02
  | .mediumLow => 0x03
  | .low => 0x04

/-- The protocol byte of the mode operand; `UnsupportedMode` where it has none (42_encoder.md R133). -/
def modeOperand (c : BitVec 3) : Except Stop Byte :=
  match modeOfCode c with
  | some m => .ok (modeByte m)
  | none => raise .unsupportedMode

/-- The protocol byte of the fan operand; `UnsupportedFan` where it has none (42_encoder.md R135). -/
def fanOperand (c : BitVec 3) : Except Stop Byte :=
  match fanOfCode c with
  | some f => .ok (fanByte f)
  | none => raise .unsupportedFan

/-- The setpoint operand's raw byte `t[7:0]`, with the inclusive bounds compared as signed integers
(30_encoding.md R67, 42_encoder.md R134). -/
def setpointOperand (cfg : Cfg) (t : BitVec 16) : Except Stop Byte :=
  if t.toInt < (cfg.tempMin.toNat : Int) ∨ (cfg.tempMax.toNat : Int) < t.toInt then raise .temperatureOutOfRange
  else .ok (t.setWidth 8)

/-- The semantic field of a `FIELD` id; none for the ids 6 to 15 (30_encoding.md R62). -/
def fieldOfId (k : BitVec 4) : Option SemField :=
  match k.toNat with
  | 0 => some .mode
  | 1 => some .fan
  | 2 => some .tempSetpoint
  | 3 => some .timer1
  | 4 => some .timer2
  | 5 => some .modeFlags
  | _ => none

/-- The command type byte (30_encoding.md R68). -/
def commandTypeByte : CommandType → Byte
  | .query => 0xC0
  | .set => 0xC3
  | .lock => 0xCC
  | .unlock => 0xCD

/-- The decoder's map from a byte to a mode (43_decoder.md R164). -/
def modeOfByte (x : Byte) : Mode :=
  match x.toNat with
  | 0x00 => .known .off
  | 0x91 => .known .autoPrimary
  | 0x80 => .known .autoAlt
  | 0x88 => .known .cool
  | 0x82 => .known .dry
  | 0x84 => .known .heat
  | 0x81 => .known .fanOnly
  | _ => .unknown x

/-- The decoder's map from a byte to a fan setting (43_decoder.md R165). -/
def fanOfByte (y : Byte) : Fan :=
  match y.toNat with
  | 0x80 => .known .auto
  | 0x01 => .known .high
  | 0x02 => .known .medium
  | 0x03 => .known .mediumLow
  | 0x04 => .known .low
  | _ => .unknown y

/-- A 16-bit field composed of two bytes, low byte first (20_memory.md R45, 43_decoder.md R169). -/
def halfOfBytes (lo hi : Byte) : Half := lo.zeroExtend 16 ||| (hi.zeroExtend 16 <<< 8)

end Sys2Proof.Machine
end

