-- ==== Sys2Proof/Machine/Flags.lean ====
section
/-! DEFINITION. The flags the decoder computes from the response's flag bytes (43_decoder.md R163, R167, R168, R178). The block
keeps no flags between requests (10_state.md R32). -/

namespace Sys2Proof.Machine

open Sys2Proof

/-- `extTempSensor`: mask 0x80 of the capability byte (43_decoder.md R163). -/
def extTempSensorFlag (c : Byte) : Bool := decide (c &&& 0x80#8 ≠ 0#8)

/-- `swingSupported`: mask 0x10 of the capability byte (43_decoder.md R163). -/
def swingSupportedFlag (c : Byte) : Bool := decide (c &&& 0x10#8 ≠ 0#8)

/-- The four mode flags. -/
structure ModeFlags where
  eco     : Bool
  auxHeat : Bool
  swing   : Bool
  vent    : Bool
deriving DecidableEq, Repr

/-- The mode flags: VENT is the exact byte 0x88, tested first; otherwise bits 0, 1 and 2 (43_decoder.md R167). -/
def modeFlagsOf (m : Byte) : ModeFlags :=
  if m = 0x88#8 then { eco := false, auxHeat := false, swing := false, vent := true }
  else { eco := m.getLsbD 0, auxHeat := m.getLsbD 1, swing := m.getLsbD 2, vent := false }

/-- `waterPump`: bit 2 of the operation flags (43_decoder.md R168). -/
def waterPumpFlag (p : Byte) : Bool := p.getLsbD 2

/-- `waterLock`: bit 7 of the operation flags (43_decoder.md R168). -/
def waterLockFlag (p : Byte) : Bool := p.getLsbD 7

/-- `currentMeasured`: the reading is not 0xFF (43_decoder.md R178). -/
def currentMeasuredFlag (b : Byte) : Bool := decide (b ≠ 0xFF#8)

end Sys2Proof.Machine
end

