-- ==== Sys2Proof/Machine/Decoder.lean ====
section
/-! DEFINITION. The frame decoder: DECODE (43_decoder.md). -/

namespace Sys2Proof.Machine

open Sys2Proof

/-- The four checks of a response frame, in order: length, start byte, end byte, checksum (43_decoder.md R171 to R175). -/
def checkResponse (b : List Byte) : Except Stop Unit := do
  if b.length ≠ rspLen then raise .wrongLength
  let start ← memRead b 0
  if start ≠ 0xAA#8 then raise .badStartByte
  let last ← memRead b 31
  if last ≠ 0x55#8 then raise .badEndByte
  let stored ← memRead b 30
  if stored ≠ frameCk b then raise .checksumMismatch

/-- The 16-bit field whose low byte is at index `k` (43_decoder.md R169). -/
def readHalf (b : List Byte) (k : Nat) : Except Stop Half := do
  let lo ← memRead b k
  let hi ← memRead b (k + 1)
  return halfOfBytes lo hi

/-- The telemetry record of a checked frame under the layout in force (43_decoder.md R160, R170). -/
def telemetryOf (rl : RespLayout) (b : List Byte) : Except Stop Telemetry := do
  let responseType ← memRead b rl.responseType
  let capability ← memRead b rl.capabilityFlags
  let modeRaw ← memRead b rl.mode
  let fanRaw ← memRead b rl.fan
  let tempSetpoint ← memRead b rl.tempSetpoint
  let inletTemp ← memRead b rl.inletTemp
  let coilTempA ← memRead b rl.coilTempA
  let coilTempB ← memRead b rl.coilTempB
  let outsideTemp ← memRead b rl.outsideTemp
  let current ← memRead b currentReadingIndex
  let timerStart ← memRead b rl.timerStart
  let timerStop ← memRead b rl.timerStop
  let modeFlagsRaw ← memRead b rl.modeFlags
  let operation ← memRead b rl.operationFlags
  let errorCode ← readHalf b rl.errorCodeLo
  let protectionCode ← readHalf b rl.protectionCodeLo
  let commModule ← memRead b rl.commModuleErrorFlags
  return {
    responseType := responseType
    capabilityRaw := capability
    extTempSensor := extTempSensorFlag capability
    swingSupported := swingSupportedFlag capability
    mode := modeOfByte modeRaw
    fan := fanOfByte fanRaw
    tempSetpoint := tempSetpoint
    inletTemp := inletTemp
    coilTempA := coilTempA
    coilTempB := coilTempB
    outsideTemp := outsideTemp
    currentReading := current
    currentMeasured := currentMeasuredFlag current
    timerStart := timerStart
    timerStop := timerStop
    modeFlagsRaw := modeFlagsRaw
    eco := (modeFlagsOf modeFlagsRaw).eco
    auxHeat := (modeFlagsOf modeFlagsRaw).auxHeat
    swing := (modeFlagsOf modeFlagsRaw).swing
    vent := (modeFlagsOf modeFlagsRaw).vent
    operationFlagsRaw := operation
    waterPump := waterPumpFlag operation
    waterLock := waterLockFlag operation
    errorCode := errorCode
    protectionCode := protectionCode
    commModuleErrorFlags := commModule }

/-- `DECODE` (43_decoder.md R170). -/
def execDecode (buf : List Byte) (s : State) : Host.Outcome State Fault Refusal :=
  finish s do
    presented s buf
    checkResponse buf
    let t ← telemetryOf s.params.respLayout buf
    return .telem t

end Sys2Proof.Machine
end

