-- ==== Sys2Proof/Machine/Encoder.lean ====
section
/-! DEFINITION. The frame encoder: ENCQ, ENCSET, ENCLOCK and ENCUNLOCK (42_encoder.md). -/

namespace Sys2Proof.Machine

open Sys2Proof

/-- The query frame's writes, the literal of 30_encoding.md R81 at indices 0 to 15. -/
def queryWrites : List Host.Cell :=
  [(0, 0xAA), (1, 0xC0), (2, 0x00), (3, 0x00), (4, 0x80), (5, 0x00), (6, 0x00), (7, 0x00), (8, 0x00), (9, 0x00),
   (10, 0x00), (11, 0x00), (12, 0x00), (13, 0x3F), (14, 0x81), (15, 0x55)]

/-- The whole output frame, indices 0 to 15. -/
def wholeFrame (out : Memory) : Except Stop Payload := do
  let f ← readAll out (List.range cmdLen)
  return .frame f

/-- `ENCQ` (42_encoder.md R131). -/
def execEncq (s : State) : Host.Outcome State Fault Refusal :=
  finish s do
    let out ← writeAll [] queryWrites
    wholeFrame out

/-- The index of a field in the command frame, from the layout table (41_layout.md R120); `UnsupportedField` where the variant
has no mapping. -/
def fieldOffset (v : Variant) (f : SemField) : Except Stop Nat :=
  match layout v f with
  | some k => .ok k
  | none => raise .unsupportedField

/-- The writes that place the mode byte and zero the indices the variant does not use (42_encoder.md R132, R136). -/
def modeWrites (v : Variant) (mb : Byte) : Except Stop (List Host.Cell) := do
  let modeAt ← fieldOffset v .mode
  match v with
  | .a => return [(modeAt, mb), (6, 0x00), (12, 0x00)]
  | .b =>
    let flagsAt ← fieldOffset v .modeFlags
    return [(modeAt, mb), (11, 0x00), (flagsAt, 0x00)]

/-- Every write of `BuildCmd` but the checksum's, in the order of 42_encoder.md R132: `ct` the command type, `mb`, `fb`, `tb` the
mode, fan and setpoint bytes. The control byte is 0x3C for every command type (30_encoding.md R84; log 11). -/
def commandWrites (v : Variant) (ct mb fb tb : Byte) : Except Stop (List Host.Cell) := do
  let fanAt ← fieldOffset v .fan
  let setpointAt ← fieldOffset v .tempSetpoint
  let timer1At ← fieldOffset v .timer1
  let timer2At ← fieldOffset v .timer2
  let placed ← modeWrites v mb
  return [(0, 0xAA), (1, ct), (2, 0x00), (3, 0x00), (4, 0x80), (5, 0x00), (fanAt, fb), (setpointAt, tb), (timer1At, 0x00),
    (timer2At, 0x00)] ++ placed ++ [(13, 0x3C), (15, 0x55)]

/-- `FrameCk(OUT_FRAME)` before index 14 is written: `ck8` of the other fifteen bytes (40_checksum.md R101). -/
def frameCkOut (out : Memory) : Except Stop Byte := do
  let covered ← readAll out (List.range 14 ++ [15])
  return ck8 covered

/-- The checksum's write, the last of `BuildCmd` (42_encoder.md R132). -/
def checksumWrite (ck : Byte) : Host.Cell := (14, ck)

/-- `BuildCmd(ct)`: the checks in the order of 42_encoder.md R140, then the sixteen writes (R132). -/
def buildCmd (cfg : Cfg) (ct : CommandType) (mode fan : BitVec 3) (setpoint : BitVec 16) : Except Stop Payload := do
  let mb ← modeOperand mode
  let fb ← fanOperand fan
  let tb ← setpointOperand cfg setpoint
  let ws ← commandWrites (variantOf cfg.variant) (commandTypeByte ct) mb fb tb
  let out ← writeAll [] ws
  let ck ← frameCkOut out
  let out ← writeAll out [checksumWrite ck]
  wholeFrame out

/-- `ENCSET` (42_encoder.md R137). -/
def execEncset (mode fan : BitVec 3) (setpoint : BitVec 16) (s : State) : Host.Outcome State Fault Refusal :=
  finish s (buildCmd s.cfg .set mode fan setpoint)

/-- `ENCLOCK` (42_encoder.md R138). -/
def execEnclock (mode fan : BitVec 3) (setpoint : BitVec 16) (s : State) : Host.Outcome State Fault Refusal :=
  finish s (buildCmd s.cfg .lock mode fan setpoint)

/-- `ENCUNLOCK` (42_encoder.md R139). -/
def execEncunlock (mode fan : BitVec 3) (setpoint : BitVec 16) (s : State) : Host.Outcome State Fault Refusal :=
  finish s (buildCmd s.cfg .unlock mode fan setpoint)

end Sys2Proof.Machine
end

