-- ==== Sys2Proof/Machine/Offset.lean ====
section
/-! DEFINITION. The variant layout's request: OFFSETOF (41_layout.md). -/

namespace Sys2Proof.Machine

open Sys2Proof

/-- `OFFSETOF`: the index of a semantic field under the variant in force; `UnsupportedField` for an id that names no field and
for a field with no mapping (41_layout.md R121). -/
def execOffsetof (field : BitVec 4) (s : State) : Host.Outcome State Fault Refusal :=
  finish s <|
    match fieldOfId field with
    | none => raise .unsupportedField
    | some f =>
      match layout (variantOf s.cfg.variant) f with
      | none => raise .unsupportedField
      | some k => .ok (.byte (BitVec.ofNat 8 k))

end Sys2Proof.Machine
end

