-- ==== Sys2Proof/Machine/Dispatch.lean ====
section
/-! DEFINITION. One arm per operation (30_encoding.md R61). -/

namespace Sys2Proof.Machine

open Sys2Proof

def exec (i : Instr) (s : State) : Host.Outcome State Fault Refusal :=
  match i with
  | .encq => Sys2Proof.Machine.execEncq s
  | .encset mode fan setpoint => Sys2Proof.Machine.execEncset mode fan setpoint s
  | .enclock mode fan setpoint => Sys2Proof.Machine.execEnclock mode fan setpoint s
  | .encunlock mode fan setpoint => Sys2Proof.Machine.execEncunlock mode fan setpoint s
  | .decode buf => Sys2Proof.Machine.execDecode buf s
  | .cksum buf => Sys2Proof.Machine.execCksum buf s
  | .verify buf => Sys2Proof.Machine.execVerify buf s
  | .offsetof field => Sys2Proof.Machine.execOffsetof field s

end Sys2Proof.Machine
end

