-- ==== Sys2Proof/Machine/Serve.lean ====
section
/-! DEFINITION. How the block serves what the host presents: one input a step, in order (20_memory.md R49). -/

namespace Sys2Proof.Machine

open Sys2Proof

/-- One request: decoded before any operand is read (60_exceptions.md R203), then run; an illegal word gives `IllegalRequest` and
does nothing else (30_encoding.md R63). -/
def serveRequest (r : Request) (s : State) : Host.Outcome State Fault Refusal :=
  match decode r with
  | .ok i => exec i s
  | .error _ => finish s (raise .illegalRequest)

/-- One input of the host. A request that a reset interrupts ends with no response (70_reset_and_hazards.md R233). -/
def serveInput (x : HostInput) (s : State) : Host.Outcome State Fault Refusal :=
  match x with
  | .request r => serveRequest r s
  | .reset _ p => .next (loadReset p s)

/-- The oldest input taken and served; with none, the block waits (log 6). -/
def serveNext (s : State) : Host.Outcome State Fault Refusal :=
  match s.inputs with
  | [] => .next s
  | x :: rest => serveInput x { s with inputs := rest }

/-- The state with a request put where the next step takes it. -/
def presentFirst (r : Request) (s : State) : State := { s with inputs := .request r :: s.inputs }

end Sys2Proof.Machine
end

