-- ==== Sys2Proof/Machine/Step.lean ====
section
/-! DEFINITION. One step: the block serves one input of the host, a whole request or a reset (20_memory.md R48, R49). -/

namespace Sys2Proof.Machine

open Sys2Proof

/-- One step of the block. -/
def step (s : State) : Host.Outcome State Fault Refusal := serveNext s

/-- The state whose very next step serves the request of an opcode-table word (log 5). The table gives the 8 bits of `REQ`
alone, so `nbits` changes nothing. -/
def State.withFetchWord (s : State) (_nbits w : Nat) : State := presentFirst (tableRequest w) s

end Sys2Proof.Machine
end

