-- ==== Sys2Proof/Safety.lean ====
section
/-! DEFINITION. What counts as a safe run: the block's parameters are legal, what the host presents can be presented, and a
frame on the response port is a whole, checksummed command or query frame. -/

namespace Sys2Proof.Machine

open Sys2Proof

/-- A frame as 42_encoder.md R141 describes it: 16 bytes, start byte, end byte, and its checksum at index 14. -/
def frameValid (f : List Byte) : Bool :=
  decide (f.length = cmdLen) && decide (f[0]? = some 0xAA#8) && decide (f[15]? = some 0x55#8)
    && decide (f[14]? = some (frameCk f))

/-- A response port that holds no ill-formed frame. -/
def portOk : Option Response → Bool
  | some (.ok (.frame f)) => frameValid f
  | _ => true

/-- An input the host can present: its buffer fits `MAX_IN_LEN` (10_state.md R28, 92_eei_decisions.md D23). -/
def presentable (p : Params) : HostInput → Bool
  | .request r => decide (r.inBuf.length ≤ p.maxInLen)
  | .reset _ _ => true

/-- The invariant of a safe run. -/
abbrev State.Inv (s : State) : Prop :=
  paramsOk s.params = true ∧ (∀ x ∈ s.inputs, presentable s.params x = true) ∧ portOk s.response = true

/-- `n` steps, one after the other, ending at the first stop. -/
def runSteps : Nat → State → Host.Outcome State Fault Refusal
  | 0, s => .next s
  | n + 1, s =>
    match step s with
    | .next t => runSteps n t
    | .fault r => .fault r
    | .refused r => .refused r

/-- The response a step leaves on the port, where the step answers a next state. -/
def responseAfter : Host.Outcome State Fault Refusal → Option Response
  | .next s => s.response
  | .fault _ => none
  | .refused _ => none

end Sys2Proof.Machine
end

