-- ==== Sys2Proof/Certificates/Slice0/Obligations.lean ====
section
/-! DEFINITION. The statements for the provers, each with the rule of spec/ it formalises. The tables of the spec they rest on
are written out here again, apart from the model's own. -/

namespace Sys2Proof.Claims

open Sys2Proof Sys2Proof.Machine

/-- The protocol bytes of the `OPD_MODE` codes 0 to 6 (30_encoding.md R65); the code 7 has none. -/
def modeBytes : List Byte := [0x00, 0x91, 0x80, 0x88, 0x82, 0x84, 0x81]

/-- The protocol bytes of the `OPD_FAN` codes 0 to 4 (30_encoding.md R66); the codes 5 to 7 have none. -/
def fanBytes : List Byte := [0x80, 0x01, 0x02, 0x03, 0x04]

/-- The command-frame indices of the field ids 0, 1, … that have a mapping (41_layout.md R120). -/
def fieldOffsets (variant : BitVec 1) : List Byte :=
  if variant = 0#1 then [11, 7, 8, 9, 10] else [6, 7, 8, 9, 10, 12]

/-- The three command operations on the same operands, each with its command type byte (30_encoding.md R68). -/
def commands (mode fan : BitVec 3) (t : BitVec 16) : List (Instr × Byte) :=
  [(.encset mode fan t, 0xC3), (.enclock mode fan t, 0xCC), (.encunlock mode fan t, 0xCD)]

/-- The setpoint lies between the two bounds, both included, as signed integers (42_encoder.md R134). -/
abbrev inRange (c : Cfg) (t : BitVec 16) : Prop :=
  (c.tempMin.toNat : Int) ≤ t.toInt ∧ t.toInt ≤ (c.tempMax.toNat : Int)

/-- The sum of the bytes as an integer (00_scope.md R11). -/
def total (bs : List Byte) : Nat := (bs.map BitVec.toNat).sum

/-- The sixteen bytes of a command frame (30_encoding.md R80), `ck` its checksum byte. -/
def commandFrame (variant : BitVec 1) (ct mb fb tb ck : Byte) : List Byte :=
  [0xAA, ct, 0x00, 0x00, 0x80, 0x00, if variant = 0#1 then 0x00 else mb, fb, tb, 0x00, 0x00,
   if variant = 0#1 then mb else 0x00, 0x00, 0x3C, ck, 0x55]

/-- The query literal (30_encoding.md R81). -/
def queryFrame : List Byte :=
  [0xAA, 0xC0, 0x00, 0x00, 0x80, 0x00, 0x00, 0x00, 0x00, 0x00, 0x00, 0x00, 0x00, 0x3F, 0x81, 0x55]

/-- The checksum of a frame of length `n`, every byte but the one at index n − 2 (40_checksum.md R101). -/
def checksumOf (f : List Byte) : Byte :=
  BitVec.ofNat 8 (0xFF - total (f.take (f.length - 2) ++ f.drop (f.length - 1)) % 256)

/-- The four checks of a response frame hold (43_decoder.md R171 to R174). -/
abbrev accepted (b : List Byte) : Prop :=
  b.length = 32 ∧ b[0]? = some 0xAA#8 ∧ b[31]? = some 0x55#8 ∧ b[30]? = some (checksumOf b)

/-- The decoder's mode of a byte, the table of 43_decoder.md R164. -/
def modeTable (x : Byte) : Mode :=
  if x = 0x00#8 then .known .off else if x = 0x91#8 then .known .autoPrimary else if x = 0x80#8 then .known .autoAlt
  else if x = 0x88#8 then .known .cool else if x = 0x82#8 then .known .dry else if x = 0x84#8 then .known .heat
  else if x = 0x81#8 then .known .fanOnly else .unknown x

/-- The decoder's fan setting of a byte, the table of 43_decoder.md R165. -/
def fanTable (y : Byte) : Fan :=
  if y = 0x80#8 then .known .auto else if y = 0x01#8 then .known .high else if y = 0x02#8 then .known .medium
  else if y = 0x03#8 then .known .mediumLow else if y = 0x04#8 then .known .low else .unknown y

/-- `OP`, bits 3..0 of `REQ`, as a number (30_encoding.md R60). -/
def opNumber (r : Request) : Nat := r.req.toNat % 16

/-- `FIELD`, bits 7..4 of `REQ`, as a number (30_encoding.md R60). -/
def fieldNumber (r : Request) : Nat := r.req.toNat / 16

/-- The four payload ports of a response, `OUT_FRAME`, `OUT_BYTE`, `OUT_BOOL` and `OUT_TELEM` (10_state.md R29). -/
def payloadPorts (r : Response) : Option (List Byte) × Option Byte × Option Bool × Option Telemetry :=
  (r.outFrame, r.outByte, r.outBool, r.outTelem)

/-- The `<mode>` operands of an assembler line with their `OPD_MODE` codes (30_encoding.md R65), `Unknown` as 95_test_vectors.md
writes it. -/
def modeCodes : List (AsmMode × BitVec 3) :=
  [(.name .off, 0), (.name .autoPrimary, 1), (.name .autoAlt, 2), (.name .cool, 3), (.name .dry, 4), (.name .heat, 5),
   (.name .fanOnly, 6), (.unknownCode 7, 7)]

/-- The `<fan>` operands of an assembler line with their `OPD_FAN` codes (30_encoding.md R66). -/
def fanCodes : List (AsmFan × BitVec 3) :=
  [(.name .auto, 0), (.name .high, 1), (.name .medium, 2), (.name .mediumLow, 3), (.name .low, 4), (.unknownCode 5, 5),
   (.unknownCode 6, 6), (.unknownCode 7, 7)]

/-- The named `<field>` operands of an assembler line with their ids (30_encoding.md R62). -/
def fieldIds : List (AsmField × Nat) :=
  [(.name .mode, 0), (.name .fan, 1), (.name .tempSetpoint, 2), (.name .timer1, 3), (.name .timer2, 4),
   (.name .modeFlags, 5)]

/-- The assembler's command lines on the same operands, the three of 30_encoding.md R70 and the three expansions of R71, each with
its `REQ`. -/
def commandLines (m : AsmMode) (f : AsmFan) (t : Int) : List (AsmLine × BitVec 8) :=
  [(.encset m f t, 0x01), (.enclock m f t, 0x02), (.encunlock m f t, 0x03),
   (.enccmd .set m f t, 0x01), (.enccmd .lock m f t, 0x02), (.enccmd .unlock m f t, 0x03)]

end Sys2Proof.Claims

open Sys2Proof Sys2Proof.Machine Sys2Proof.Claims

/-! ### Requests and steps -/

/-- Words written out from the encodings of 30_encoding.md R60 to R63 decode to what they stand for. -/
def Obligations.SpecWordsDecode : Prop :=
  decode (bareRequest 0x00#8) = .ok .encq
  ∧ decode (commandRequest 0x01#8 3#3 1#3 0x0018#16) = .ok (.encset 3#3 1#3 0x0018#16)
  ∧ decode (commandRequest 0x02#8 5#3 2#3 0x0015#16) = .ok (.enclock 5#3 2#3 0x0015#16)
  ∧ decode (commandRequest 0x03#8 0#3 0#3 0xFFFF#16) = .ok (.encunlock 0#3 0#3 0xFFFF#16)
  ∧ decode (bufferRequest 0x04#8 [0xAA]) = .ok (.decode [0xAA])
  ∧ decode (bufferRequest 0x05#8 [0xFF, 0x01]) = .ok (.cksum [0xFF, 0x01])
  ∧ decode (bufferRequest 0x06#8 [0x00, 0xFF]) = .ok (.verify [0x00, 0xFF])
  ∧ decode (bareRequest 0x57#8) = .ok (.offsetof 5#4)
  ∧ decode (bareRequest 0xF7#8) = .ok (.offsetof 15#4)
  ∧ decode (bareRequest 0x08#8) = .error .reservedOp
  ∧ decode (bareRequest 0x10#8) = .error .strayField

/-- A step whose oldest input is a request that decodes takes that request and runs its operation. -/
def Obligations.StepRunsTheDecodedRequest : Prop :=
  ∀ (s : State) (r : Request) (rest : List HostInput) (i : Instr),
    s.inputs = .request r :: rest → decode r = .ok i → step s = exec i { s with inputs := rest }

/-- A table word placed by `withFetchWord` is what the next step runs (log 5). -/
def Obligations.PlacedTableWordRunsNext : Prop :=
  ∀ (s : State) (w : Nat) (i : Instr), decodeTableWord 8 w = some i → step (s.withFetchWord 8 w) = exec i s

/-- With nothing presented, the block waits: the model's choice (log 6). -/
def Obligations.IdleBlockWaits : Prop :=
  ∀ s : State, s.inputs = [] → step s = .next s

/-- Every operation is read back from its own encoding, and a decoded request's encoding keeps exactly `REQ` and the inputs
10_state.md R28 lists for the operation; that the others are zero is the model's choice (log 17). -/
def Obligations.DecodeInvertsEncode : Prop :=
  (∀ i : Instr, decode (encode i) = .ok i)
  ∧ ∀ (r : Request) (i : Instr), decode r = .ok i →
      encode i =
        { req := r.req
          opdMode := if 1 ≤ opNumber r ∧ opNumber r ≤ 3 then r.opdMode else 0#3
          opdFan := if 1 ≤ opNumber r ∧ opNumber r ≤ 3 then r.opdFan else 0#3
          opdSetpoint := if 1 ≤ opNumber r ∧ opNumber r ≤ 3 then r.opdSetpoint else 0#16
          inBuf := if 4 ≤ opNumber r ∧ opNumber r ≤ 6 then r.inBuf else [] }

/-- 30_encoding.md R63: reserved `OP` and stray `FIELD` words answer `IllegalRequest` and do nothing else, whatever the operand
inputs hold; every other word runs an operation. -/
def Obligations.IllegalWordsAnswerIllegalRequest : Prop :=
  ∀ (s : State) (r : Request) (rest : List HostInput), s.inputs = .request r :: rest →
    if 8 ≤ opNumber r ∨ (opNumber r ≤ 6 ∧ fieldNumber r ≠ 0) then
      step s = .next { s with inputs := rest, response := some (.err .illegalRequest) }
    else ∃ i : Instr, decode r = .ok i ∧ step s = exec i { s with inputs := rest }

/-- 20_memory.md R49: requests are served one a step, in the order presented, each with the response it gets when it is
presented alone. A reset among the inputs is the matter of `Obligations.ResetLoadsTheRegisters`. -/
def Obligations.RequestsServedInOrder : Prop :=
  ∀ (s : State) (reqs : List Request), respLayoutOk s.params.respLayout = true →
    (∀ r ∈ reqs, r.inBuf.length ≤ s.params.maxInLen) → s.inputs = reqs.map HostInput.request →
    ∀ (k : Nat) (r : Request), reqs[k]? = some r →
      ∃ w : State, step { s with inputs := [.request r] } = .next w
        ∧ runSteps (k + 1) s
            = .next { s with inputs := (reqs.drop (k + 1)).map HostInput.request, response := w.response }

/-! ### Reset and the registers -/

/-- The state after reset as far as the spec gives it: Variant A by default, nothing pending (70_reset_and_hazards.md R230 to
R232). The setpoint bound after reset is the model's choice (log 3) and is not stated. -/
def Obligations.ResetSelectsVariantA : Prop :=
  State.reset.cfg.variant = 0#1 ∧ State.reset.inputs = [] ∧ State.reset.response = none

/-- A reset loads the three registers, leaves no response pending, and a request it interrupts gets no response
(70_reset_and_hazards.md R230, R231, R233). That the inputs behind it stay is the model's reading (log 7). -/
def Obligations.ResetLoadsTheRegisters : Prop :=
  ∀ (s : State) (during : Option Request) (p : ResetParams) (rest : List HostInput),
    s.inputs = .reset during p :: rest →
    step s = .next { s with
      cfg := { variant := p.variant, tempMin := p.tempMin, tempMax := p.tempMax }, inputs := rest, response := none }

/-- 70_reset_and_hazards.md R235: the variant and the setpoint bound change by a reset with new parameters and by no request. -/
def Obligations.RegistersChangeOnlyByReset : Prop :=
  ∀ s t : State, step s = .next t →
    t.params = s.params
    ∧ (t.cfg ≠ s.cfg → ∃ (during : Option Request) (p : ResetParams) (rest : List HostInput),
        s.inputs = .reset during p :: rest
        ∧ t.cfg = { variant := p.variant, tempMin := p.tempMin, tempMax := p.tempMax })

/-- An operation that answers a next state puts a response on the port and changes nothing else (10_state.md R20). -/
def Obligations.OperationsChangeOnlyTheResponse : Prop :=
  ∀ (i : Instr) (s t : State), exec i s = .next t → ∃ r : Response, t = { s with response := some r }

/-- 10_state.md R21: with its parameters fixed, the block is one total function from the registers and the request to the
response. -/
def Obligations.BlockIsAFunctionOfRegistersAndRequest : Prop :=
  ∀ p : Params, respLayoutOk p.respLayout = true →
    ∃ f : Cfg → Request → Response, ∀ (s : State) (r : Request) (rest : List HostInput),
      s.params = p → s.inputs = .request r :: rest → r.inBuf.length ≤ p.maxInLen →
      step s = .next { s with inputs := rest, response := some (f s.cfg r) }

/-- 60_exceptions.md R202: no request, failed or not, changes the registers, and the next request is served exactly as if it had not
been made. -/
def Obligations.RequestsLeaveNothingBehind : Prop :=
  ∀ (s t : State) (r₁ r₂ : Request) (rest : List HostInput),
    s.inputs = .request r₁ :: .request r₂ :: rest → step s = .next t →
    t.cfg = s.cfg ∧ step t = step { s with inputs := .request r₂ :: rest }

/-! ### The invariant -/

/-- The state after reset meets the invariant. -/
def Obligations.ResetMeetsTheInvariant : Prop := State.reset.Inv

/-- Every step keeps the invariant: legal parameters, presentable inputs, and only whole, checksummed frames on the port. -/
def Obligations.StepKeepsTheInvariant : Prop :=
  ∀ s t : State, s.Inv → step s = .next t → t.Inv

/-- From a state that meets the invariant the block never stops: no step faults (20_memory.md R41) and none refuses. -/
def Obligations.StepNeverStops : Prop :=
  ∀ s : State, s.Inv → ∃ t : State, step s = .next t

/-- Under a legal response layout no operation faults, and the one refusal is that of a buffer longer than `MAX_IN_LEN`
(20_memory.md R41; 92_eei_decisions.md D23). -/
def Obligations.OnlyOverlongBuffersStop : Prop :=
  ∀ (i : Instr) (s : State), respLayoutOk s.params.respLayout = true →
    (∀ x : Fault, exec i s ≠ .fault x)
    ∧ ∀ x : Refusal, exec i s = .refused x → x = .inputTooLong ∧ i.wellFormed s.params.maxInLen = false

/-- A buffer longer than `MAX_IN_LEN` cannot be presented: the three operations that read it refuse it
(92_eei_decisions.md D23, log 8). -/
def Obligations.OverlongBufferIsRefused : Prop :=
  ∀ (s : State) (buf : List Byte), s.params.maxInLen < buf.length →
    ∀ i ∈ [Instr.decode buf, Instr.cksum buf, Instr.verify buf], exec i s = .refused .inputTooLong

/-! ### Responses -/

/-- The status numbers of 60_exceptions.md R200, none above 9; beside `OK` exactly the one payload port of the payload's kind is
present, with its value, and beside an error none is (10_state.md R29). -/
def Obligations.StatusNumbersAndPayloadPorts : Prop :=
  (∀ p : Payload, (Response.ok p).status = 0#4)
  ∧ [ErrKind.wrongLength, .badStartByte, .badEndByte, .checksumMismatch, .unsupportedMode, .unsupportedFan,
      .temperatureOutOfRange, .unsupportedField, .illegalRequest].map (fun k => (Response.err k).status)
      = [1#4, 2#4, 3#4, 4#4, 5#4, 6#4, 7#4, 8#4, 9#4]
  ∧ (∀ r : Response, r.status.toNat ≤ 9)
  ∧ (∀ f : List Byte, payloadPorts (.ok (.frame f)) = (some f, none, none, none))
  ∧ (∀ b : Byte, payloadPorts (.ok (.byte b)) = (none, some b, none, none))
  ∧ (∀ b : Bool, payloadPorts (.ok (.bool b)) = (none, none, some b, none))
  ∧ (∀ t : Telemetry, payloadPorts (.ok (.telem t)) = (none, none, none, some t))
  ∧ ∀ r : Response, r.status ≠ 0#4 → payloadPorts r = (none, none, none, none)

/-- Each operation reports only the error kinds the column "raised by" of 60_exceptions.md R200 gives it. -/
def Obligations.ErrorKindsBelongToTheirOperations : Prop :=
  ∀ (i : Instr) (s t : State) (k : ErrKind), exec i s = .next t → t.response = some (.err k) →
    match i with
    | .encq => False
    | .encset _ _ _ => k ∈ [.unsupportedMode, .unsupportedFan, .temperatureOutOfRange]
    | .enclock _ _ _ => k ∈ [.unsupportedMode, .unsupportedFan, .temperatureOutOfRange]
    | .encunlock _ _ _ => k ∈ [.unsupportedMode, .unsupportedFan, .temperatureOutOfRange]
    | .decode _ => k ∈ [.wrongLength, .badStartByte, .badEndByte, .checksumMismatch]
    | .cksum _ => False
    | .verify _ => k = .wrongLength
    | .offsetof _ => k = .unsupportedField

/-- Each operation's payload is on the port 10_state.md R29 gives it. -/
def Obligations.PayloadsBelongToTheirOperations : Prop :=
  ∀ (i : Instr) (s t : State) (p : Payload), exec i s = .next t → t.response = some (.ok p) →
    match i with
    | .encq => ∃ f : List Byte, p = .frame f ∧ f.length = 16
    | .encset _ _ _ => ∃ f : List Byte, p = .frame f ∧ f.length = 16
    | .enclock _ _ _ => ∃ f : List Byte, p = .frame f ∧ f.length = 16
    | .encunlock _ _ _ => ∃ f : List Byte, p = .frame f ∧ f.length = 16
    | .decode _ => ∃ t : Telemetry, p = .telem t
    | .cksum _ => ∃ b : Byte, p = .byte b
    | .verify _ => ∃ b : Bool, p = .bool b
    | .offsetof _ => ∃ b : Byte, p = .byte b

/-- 41_layout.md R122: `UnsupportedField` is reported by `OFFSETOF` alone, by no encode request. -/
def Obligations.OnlyOffsetofReportsUnsupportedField : Prop :=
  ∀ (i : Instr) (s t : State), exec i s = .next t → t.response = some (.err .unsupportedField) →
    ∃ field : BitVec 4, i = .offsetof field

/-! ### Checksum codec -/

/-- 40_checksum.md R100: `CKSUM` answers 0xFF less the sum modulo 256, the complement of the sum at 8 bits; 0xFF for no bytes. -/
def Obligations.CksumIsTheComplementOfTheSum : Prop :=
  ∀ (s : State) (buf : List Byte), buf.length ≤ s.params.maxInLen →
    ∃ c : Byte, exec (.cksum buf) s = .next { s with response := some (.ok (.byte c)) }
      ∧ c.toNat = 0xFF - total buf % 256 ∧ c = ~~~(BitVec.ofNat 8 (total buf)) ∧ (buf = [] → c = 0xFF#8)

/-- `CKSUM` does not depend on the order of the bytes (40_checksum.md R103, corner cases). -/
def Obligations.CksumIgnoresByteOrder : Prop :=
  ∀ (s : State) (buf buf' : List Byte), buf.Perm buf' → exec (.cksum buf) s = exec (.cksum buf') s

/-- `VERIFY` of at least two bytes answers whether the sum of all of them is 0xFF modulo 256 (40_checksum.md R104 with the second
form of R102). -/
def Obligations.VerifyTestsTheSumOfAllBytes : Prop :=
  ∀ (s : State) (buf : List Byte), buf.length ≤ s.params.maxInLen → 2 ≤ buf.length →
    exec (.verify buf) s = .next { s with response := some (.ok (.bool (decide (total buf % 256 = 0xFF)))) }

/-- `VERIFY` of fewer than two bytes has no checksum position (40_checksum.md R104). -/
def Obligations.VerifyNeedsTwoBytes : Prop :=
  ∀ (s : State) (buf : List Byte), buf.length ≤ s.params.maxInLen → buf.length < 2 →
    exec (.verify buf) s = .next { s with response := some (.err .wrongLength) }

/-- 40_checksum.md R105: after a change of exactly one byte, at any index, `VERIFY` gives 0. -/
def Obligations.VerifyDetectsEveryOneByteChange : Prop :=
  ∀ (s u : State) (buf : List Byte) (k : Nat) (v : Byte),
    exec (.verify buf) s = .next u → u.response = some (.ok (.bool true)) →
    k < buf.length → buf[k]? ≠ some v →
    exec (.verify (buf.set k v)) s = .next { s with response := some (.ok (.bool false)) }

/-- 40_checksum.md R106: two changes whose amounts add to 0 modulo 256 leave `VERIFY` at 1, a swap of two bytes among them. -/
def Obligations.VerifyMissesCompensatingChanges : Prop :=
  ∀ (s u : State) (buf : List Byte) (i j : Nat) (a b : Byte),
    exec (.verify buf) s = .next u → u.response = some (.ok (.bool true)) →
    i ≠ j → buf[i]? = some a → buf[j]? = some b →
    (∀ v w : Byte, (v - a) + (w - b) = 0#8 →
      exec (.verify ((buf.set i v).set j w)) s = .next { s with response := some (.ok (.bool true)) })
    ∧ exec (.verify ((buf.set i b).set j a)) s = .next { s with response := some (.ok (.bool true)) }

/-- The first form of 40_checksum.md R102, for frames of at least three bytes (log 15): start and end bytes add to 0xFF, so the
checksum is the negated sum of the bytes between them but its own. -/
def Obligations.FrameChecksumFromInnerBytes : Prop :=
  ∀ f : List Byte, 3 ≤ f.length → f[0]? = some 0xAA#8 → f[f.length - 1]? = some 0x55#8 →
    (frameCk f).toNat = (0x100 - total ((f.drop 1).take (f.length - 3)) % 256) % 256

/-! ### Variant layout -/

/-- `OFFSETOF` answers the index of 41_layout.md R120's table, and `UnsupportedField` for a field with no mapping and for an id that
names no field (R121). -/
def Obligations.OffsetofFollowsTheVariantTable : Prop :=
  ∀ (s : State) (field : BitVec 4),
    match (fieldOffsets s.cfg.variant)[field.toNat]? with
    | some k => exec (.offsetof field) s = .next { s with response := some (.ok (.byte k)) }
    | none => exec (.offsetof field) s = .next { s with response := some (.err .unsupportedField) }

/-! ### Frame encoder -/

/-- 30_encoding.md R81: `ENCQ` answers the query literal in every state, and the literal's checksum byte is that of R101. -/
def Obligations.EncqAnswersTheQueryLiteral : Prop :=
  (∀ s : State, exec .encq s = .next { s with response := some (.ok (.frame queryFrame)) })
  ∧ checksumOf queryFrame = 0x81#8

/-- A command with a known mode, a known fan setting and a setpoint within the bounds answers its frame: 42_encoder.md R136 places the
mode byte, and 30_encoding.md R67 the setpoint, unscaled. -/
def Obligations.CommandsAnswerTheirFrames : Prop :=
  ∀ (s : State) (mode fan : BitVec 3) (t : BitVec 16) (mb fb : Byte),
    modeBytes[mode.toNat]? = some mb → fanBytes[fan.toNat]? = some fb → inRange s.cfg t →
    ∃ tb : Byte, tb = t.extractLsb' 0 8 ∧ (tb.toNat : Int) = t.toInt ∧
      ∀ c ∈ commands mode fan t, ∃ ck : Byte,
        exec c.1 s = .next { s with
          response := some (.ok (.frame (commandFrame s.cfg.variant c.2 mb fb tb ck))) }
        ∧ ck = checksumOf (commandFrame s.cfg.variant c.2 mb fb tb ck)

/-- 42_encoder.md R140: of the checks that fail, the first in the order mode, fan, setpoint is reported, and there is no frame. -/
def Obligations.CommandErrorsComeInOrder : Prop :=
  ∀ (s : State) (mode fan : BitVec 3) (t : BitVec 16), ∀ c ∈ commands mode fan t,
    (mode = 7#3 → exec c.1 s = .next { s with response := some (.err .unsupportedMode) })
    ∧ (mode ≠ 7#3 → 5 ≤ fan.toNat → exec c.1 s = .next { s with response := some (.err .unsupportedFan) })
    ∧ (mode ≠ 7#3 → fan.toNat < 5 → ¬ inRange s.cfg t →
        exec c.1 s = .next { s with response := some (.err .temperatureOutOfRange) })

/-- 42_encoder.md R134, for a known mode and fan setting: outside the bounds, `TemperatureOutOfRange`; within them, ends included, the
raw byte at index 8; a negative setpoint and one above 255 are outside whatever the bounds are. -/
def Obligations.SetpointIsCheckedAgainstBothBounds : Prop :=
  ∀ (s : State) (mode fan : BitVec 3) (t : BitVec 16), mode ≠ 7#3 → fan.toNat < 5 → ∀ c ∈ commands mode fan t,
    (t.toInt < (s.cfg.tempMin.toNat : Int) ∨ (s.cfg.tempMax.toNat : Int) < t.toInt →
      exec c.1 s = .next { s with response := some (.err .temperatureOutOfRange) })
    ∧ ((s.cfg.tempMin.toNat : Int) ≤ t.toInt → t.toInt ≤ (s.cfg.tempMax.toNat : Int) →
      ∃ f : List Byte, exec c.1 s = .next { s with response := some (.ok (.frame f)) }
        ∧ f[8]? = some (t.extractLsb' 0 8))
    ∧ (t.toInt < 0 ∨ 255 < t.toInt →
      exec c.1 s = .next { s with response := some (.err .temperatureOutOfRange) })

/-- With `CFG_TEMP_MIN` above `CFG_TEMP_MAX` no setpoint is in range (10_state.md R25); the mode and fan checks still come first
(log 14). -/
def Obligations.EmptyBoundRejectsEverySetpoint : Prop :=
  ∀ (s : State) (mode fan : BitVec 3) (t : BitVec 16), s.cfg.tempMax.toNat < s.cfg.tempMin.toNat →
    mode ≠ 7#3 → fan.toNat < 5 → ∀ c ∈ commands mode fan t,
      exec c.1 s = .next { s with response := some (.err .temperatureOutOfRange) }

/-- 42_encoder.md R141: every frame an operation answers has length 16, its start and end bytes and its checksum, so `VERIFY` of it
gives 1. -/
def Obligations.AnsweredFramesVerify : Prop :=
  ∀ (i : Instr) (s t : State) (f : List Byte), exec i s = .next t → t.response = some (.ok (.frame f)) →
    f.length = 16 ∧ f[0]? = some 0xAA#8 ∧ f[15]? = some 0x55#8 ∧ f[14]? = some (checksumOf f)
    ∧ ∀ s' : State, 16 ≤ s'.params.maxInLen →
        exec (.verify f) s' = .next { s' with response := some (.ok (.bool true)) }

/-- 42_encoder.md R142: under one variant, command requests that succeed with the same frame are the same request, and no command
frame is the query frame. -/
def Obligations.DifferentCommandsGiveDifferentFrames : Prop :=
  ∀ (s s' u u' : State) (mode fan mode' fan' : BitVec 3) (t t' : BitVec 16) (f f' : List Byte),
    s.cfg.variant = s'.cfg.variant →
    ∀ c ∈ commands mode fan t, ∀ c' ∈ commands mode' fan' t',
      exec c.1 s = .next u → u.response = some (.ok (.frame f)) →
      exec c'.1 s' = .next u' → u'.response = some (.ok (.frame f')) →
      (c.1 ≠ c'.1 → f ≠ f') ∧ f ≠ queryFrame

/-- 42_encoder.md R143: the frames of one request under the two variants differ at most at indices 6 and 11, so they have one
checksum byte; with mode `Off` they are equal. -/
def Obligations.VariantsMoveOnlyTheModeByte : Prop :=
  ∀ (s u u' : State) (mode fan : BitVec 3) (t : BitVec 16) (f f' : List Byte), ∀ c ∈ commands mode fan t,
    exec c.1 { s with cfg := { s.cfg with variant := 0#1 } } = .next u → u.response = some (.ok (.frame f)) →
    exec c.1 { s with cfg := { s.cfg with variant := 1#1 } } = .next u' → u'.response = some (.ok (.frame f')) →
    (∀ k : Nat, k ≠ 6 → k ≠ 11 → f[k]? = f'[k]?) ∧ (mode = 0#3 → f = f')

/-- `ENCQ` is its sixteen writes, and a command with operands in range its fifteen writes and then the checksum's, on an empty frame;
the writes of each reach the 16 indices exactly once (20_memory.md R42). -/
def Obligations.EachFrameIndexIsWrittenOnce : Prop :=
  (∀ s : State, exec .encq s = finish s (do let out ← writeAll [] queryWrites; wholeFrame out))
  ∧ (queryWrites.map Prod.fst).Perm (List.range 16)
  ∧ ∀ (s : State) (mode fan : BitVec 3) (t : BitVec 16) (mb fb : Byte),
      modeBytes[mode.toNat]? = some mb → fanBytes[fan.toNat]? = some fb → inRange s.cfg t →
      ∀ c ∈ commands mode fan t, ∃ (ws : List Host.Cell) (ck : Byte),
        commandWrites (variantOf s.cfg.variant) c.2 mb fb (t.extractLsb' 0 8) = .ok ws
        ∧ exec c.1 s = finish s (do let out ← writeAll [] (ws ++ [checksumWrite ck]); wholeFrame out)
        ∧ ((ws ++ [checksumWrite ck]).map Prod.fst).Perm (List.range 16)

/-! ### Frame decoder -/

/-- `DECODE` of a buffer that passes the four checks answers the record of 43_decoder.md R160, field by field, under any legal
layout; an unknown mode or fan byte is no error (R177). -/
def Obligations.DecodeAnswersTheRecord : Prop :=
  ∀ (s : State) (b : List Byte), respLayoutOk s.params.respLayout = true → b.length ≤ s.params.maxInLen → accepted b →
    ∃ T : Telemetry, exec (.decode b) s = .next { s with response := some (.ok (.telem T)) } ∧
      (let rl := s.params.respLayout
       let g : Nat → Byte := fun k => b.getD k 0
       T.responseType = g rl.responseType
       ∧ T.capabilityRaw = g rl.capabilityFlags
       ∧ T.extTempSensor = decide (g rl.capabilityFlags &&& 0x80#8 ≠ 0#8)
       ∧ T.swingSupported = decide (g rl.capabilityFlags &&& 0x10#8 ≠ 0#8)
       ∧ T.mode = modeTable (g rl.mode)
       ∧ T.fan = fanTable (g rl.fan)
       ∧ T.tempSetpoint = g rl.tempSetpoint
       ∧ T.inletTemp = g rl.inletTemp
       ∧ T.coilTempA = g rl.coilTempA
       ∧ T.coilTempB = g rl.coilTempB
       ∧ T.outsideTemp = g rl.outsideTemp
       ∧ T.currentReading = g 15
       ∧ T.currentMeasured = decide (g 15 ≠ 0xFF#8)
       ∧ T.timerStart = g rl.timerStart
       ∧ T.timerStop = g rl.timerStop
       ∧ T.modeFlagsRaw = g rl.modeFlags
       ∧ T.vent = decide (g rl.modeFlags = 0x88#8)
       ∧ T.eco = (decide (g rl.modeFlags ≠ 0x88#8) && (g rl.modeFlags).getLsbD 0)
       ∧ T.auxHeat = (decide (g rl.modeFlags ≠ 0x88#8) && (g rl.modeFlags).getLsbD 1)
       ∧ T.swing = (decide (g rl.modeFlags ≠ 0x88#8) && (g rl.modeFlags).getLsbD 2)
       ∧ T.operationFlagsRaw = g rl.operationFlags
       ∧ T.waterPump = (g rl.operationFlags).getLsbD 2
       ∧ T.waterLock = (g rl.operationFlags).getLsbD 7
       ∧ T.errorCode.toNat = (g rl.errorCodeLo).toNat + 256 * (g (rl.errorCodeLo + 1)).toNat
       ∧ T.protectionCode.toNat = (g rl.protectionCodeLo).toNat + 256 * (g (rl.protectionCodeLo + 1)).toNat
       ∧ T.commModuleErrorFlags = g rl.commModuleErrorFlags)

/-- 43_decoder.md R175: of the four checks the first that fails, in the order length, start byte, end byte, checksum, is reported; the
checksum holds exactly when all 32 bytes add to 0xFF modulo 256 (R174). -/
def Obligations.DecodeReportsTheFirstFailedCheck : Prop :=
  ∀ (s : State) (b : List Byte), b.length ≤ s.params.maxInLen →
    (b.length ≠ 32 → exec (.decode b) s = .next { s with response := some (.err .wrongLength) })
    ∧ (b.length = 32 → b[0]? ≠ some 0xAA#8 →
        exec (.decode b) s = .next { s with response := some (.err .badStartByte) })
    ∧ (b.length = 32 → b[0]? = some 0xAA#8 → b[31]? ≠ some 0x55#8 →
        exec (.decode b) s = .next { s with response := some (.err .badEndByte) })
    ∧ (b.length = 32 → b[0]? = some 0xAA#8 → b[31]? = some 0x55#8 → total b % 256 ≠ 0xFF →
        exec (.decode b) s = .next { s with response := some (.err .checksumMismatch) })

/-- 43_decoder.md R179: a one-byte change of an accepted buffer is rejected, with the kind its index gives. -/
def Obligations.DecodeRejectsEveryOneByteChange : Prop :=
  ∀ (s u : State) (b : List Byte) (T : Telemetry) (k : Nat) (v : Byte),
    exec (.decode b) s = .next u → u.response = some (.ok (.telem T)) → k < 32 → b[k]? ≠ some v →
    exec (.decode (b.set k v)) s
      = .next { s with response := some (.err
          (if k = 0 then .badStartByte else if k = 31 then .badEndByte else .checksumMismatch)) }

/-- 43_decoder.md R180: each field of the record depends only on the byte or bytes it is read from, and bytes no field names change no
field. -/
def Obligations.EachFieldDependsOnItsOwnBytes : Prop :=
  ∀ (s u u' : State) (b b' : List Byte) (T T' : Telemetry),
    exec (.decode b) s = .next u → u.response = some (.ok (.telem T)) →
    exec (.decode b') s = .next u' → u'.response = some (.ok (.telem T')) →
    (let rl := s.params.respLayout
     let same : Nat → Prop := fun k => b[k]? = b'[k]?
     (same rl.responseType → T.responseType = T'.responseType)
     ∧ (same rl.capabilityFlags → T.capabilityRaw = T'.capabilityRaw ∧ T.extTempSensor = T'.extTempSensor
          ∧ T.swingSupported = T'.swingSupported)
     ∧ (same rl.mode → T.mode = T'.mode)
     ∧ (same rl.fan → T.fan = T'.fan)
     ∧ (same rl.tempSetpoint → T.tempSetpoint = T'.tempSetpoint)
     ∧ (same rl.inletTemp → T.inletTemp = T'.inletTemp)
     ∧ (same rl.coilTempA → T.coilTempA = T'.coilTempA)
     ∧ (same rl.coilTempB → T.coilTempB = T'.coilTempB)
     ∧ (same rl.outsideTemp → T.outsideTemp = T'.outsideTemp)
     ∧ (same 15 → T.currentReading = T'.currentReading ∧ T.currentMeasured = T'.currentMeasured)
     ∧ (same rl.timerStart → T.timerStart = T'.timerStart)
     ∧ (same rl.timerStop → T.timerStop = T'.timerStop)
     ∧ (same rl.modeFlags → T.modeFlagsRaw = T'.modeFlagsRaw ∧ T.eco = T'.eco ∧ T.auxHeat = T'.auxHeat
          ∧ T.swing = T'.swing ∧ T.vent = T'.vent)
     ∧ (same rl.operationFlags → T.operationFlagsRaw = T'.operationFlagsRaw ∧ T.waterPump = T'.waterPump
          ∧ T.waterLock = T'.waterLock)
     ∧ (same rl.errorCodeLo → same (rl.errorCodeLo + 1) → T.errorCode = T'.errorCode)
     ∧ (same rl.protectionCodeLo → same (rl.protectionCodeLo + 1) → T.protectionCode = T'.protectionCode)
     ∧ (same rl.commModuleErrorFlags → T.commModuleErrorFlags = T'.commModuleErrorFlags)
     ∧ ((∀ k ∈ 15 :: respIndices rl, same k) → T = T'))

/-- 30_encoding.md R91 and 70_reset_and_hazards.md R234: `DECODE`, `CKSUM`, `VERIFY` and `ENCQ` answer the same whatever the
registers hold. -/
def Obligations.DecodeIgnoresTheRegisters : Prop :=
  ∀ (s t : State) (c : Cfg) (buf : List Byte),
    ∀ i ∈ [Instr.encq, Instr.decode buf, Instr.cksum buf, Instr.verify buf],
      exec i s = .next t → exec i { s with cfg := c } = .next { t with cfg := c }

/-- The decoder's mode and fan maps are the inverses of the encoder's tables (43_decoder.md R164, R165). -/
def Obligations.ModeAndFanMapsAreInverses : Prop :=
  (∀ (x : Byte) (m : KnownMode), modeOfByte x = .known m ↔ modeByte m = x)
  ∧ (∀ (y : Byte) (f : KnownFan), fanOfByte y = .known f ↔ fanByte f = y)
  ∧ (∀ c : BitVec 3, (modeOfCode c).map modeByte = modeBytes[c.toNat]?)
  ∧ ∀ c : BitVec 3, (fanOfCode c).map fanByte = fanBytes[c.toNat]?

/-! ### Assembler lines -/

/-- Which request an assembler line gives (30_encoding.md R70): each form with operands in range gives its `REQ`, its operand codes
(R62, R65, R66) and its bytes; a mode or fan that is no row of the table, a setpoint outside −32768..32767 and a field number
above 15 are rejected. `ENCCMD` gives the request of the operation its command type names, and is rejected with `Query` (R71).
That the inputs an operation ignores are zero, so that the request is the operation's own encoding, and that an unknown code
out of its range is rejected are the model's choices (log 17). -/
def Obligations.AssembledLinesAreRequests : Prop :=
  assemble .encq = some { req := 0x00#8, opdMode := 0#3, opdFan := 0#3, opdSetpoint := 0#16, inBuf := [] }
  ∧ (∀ (m : AsmMode) (mc : BitVec 3) (f : AsmFan) (fc : BitVec 3) (t : Int),
      (m, mc) ∈ modeCodes → (f, fc) ∈ fanCodes → -32768 ≤ t → t ≤ 32767 →
      ∃ sp : BitVec 16, sp.toInt = t ∧ ∀ c ∈ commandLines m f t,
        assemble c.1 = some { req := c.2, opdMode := mc, opdFan := fc, opdSetpoint := sp, inBuf := [] })
  ∧ (∀ (m : AsmMode) (f : AsmFan) (t : Int),
      m ∉ modeCodes.map Prod.fst ∨ f ∉ fanCodes.map Prod.fst ∨ t < -32768 ∨ 32767 < t →
      ∀ c ∈ commandLines m f t, assemble c.1 = none)
  ∧ (∀ (m : AsmMode) (f : AsmFan) (t : Int), assemble (.enccmd .query m f t) = none)
  ∧ (∀ bytes : List Byte, ∀ c ∈ [(AsmLine.decode bytes, 0x04#8), (.cksum bytes, 0x05#8), (.verify bytes, 0x06#8)],
      assemble c.1 = some { req := c.2, opdMode := 0#3, opdFan := 0#3, opdSetpoint := 0#16, inBuf := bytes })
  ∧ (∀ (field : AsmField) (k : Nat), (field, k) ∈ fieldIds ∨ (field = .number k ∧ k < 16) →
      ∃ q : BitVec 8, q.toNat = 16 * k + 7 ∧
        assemble (.offsetof field) = some { req := q, opdMode := 0#3, opdFan := 0#3, opdSetpoint := 0#16, inBuf := [] })
  ∧ (∀ n : Nat, 16 ≤ n → assemble (.offsetof (.number n)) = none)
  ∧ ∀ (l : AsmLine) (r : Request), assemble l = some r → ∃ i : Instr, decode r = .ok i ∧ encode i = r
end

