-- ==== Sys2Proof/Laws/State.lean ====
section
/-! SUPPORT. What each update of the state leaves in each field. -/

namespace Sys2Proof.Machine

open Sys2Proof

@[simp] theorem State.answer_cfg (s : State) (r : Response) : (s.answer r).cfg = s.cfg := rfl
@[simp] theorem State.answer_params (s : State) (r : Response) : (s.answer r).params = s.params := rfl
@[simp] theorem State.answer_inputs (s : State) (r : Response) : (s.answer r).inputs = s.inputs := rfl
@[simp] theorem State.answer_response (s : State) (r : Response) : (s.answer r).response = some r := rfl

@[simp] theorem loadReset_cfg (p : ResetParams) (s : State) : (loadReset p s).cfg = cfgOfReset p := rfl
@[simp] theorem loadReset_params (p : ResetParams) (s : State) : (loadReset p s).params = s.params := rfl
@[simp] theorem loadReset_inputs (p : ResetParams) (s : State) : (loadReset p s).inputs = s.inputs := rfl
@[simp] theorem loadReset_response (p : ResetParams) (s : State) : (loadReset p s).response = none := rfl

@[simp] theorem presentFirst_cfg (r : Request) (s : State) : (presentFirst r s).cfg = s.cfg := rfl
@[simp] theorem presentFirst_params (r : Request) (s : State) : (presentFirst r s).params = s.params := rfl
@[simp] theorem presentFirst_inputs (r : Request) (s : State) :
    (presentFirst r s).inputs = .request r :: s.inputs := rfl
@[simp] theorem presentFirst_response (r : Request) (s : State) : (presentFirst r s).response = s.response := rfl

end Sys2Proof.Machine
end

