-- ==== Sys2Proof/Laws/Ops.lean ====
section
/-! SUPPORT. What each shared operation can do, said once. -/

namespace Sys2Proof.Machine

open Sys2Proof

/-! ### Ending a request -/

@[simp] theorem finish_ok (s : State) (p : Payload) : finish s (.ok p) = .next (s.answer (.ok p)) := rfl
@[simp] theorem finish_raise (s : State) (k : ErrKind) : finish s (.error (.raise k)) = .next (s.answer (.err k)) := rfl
@[simp] theorem finish_fault (s : State) (r : Fault) : finish s (.error (.fault r)) = .fault r := rfl
@[simp] theorem finish_refuse (s : State) (r : Refusal) : finish s (.error (.refuse r)) = .refused r := rfl

@[simp] theorem raise_eq {α : Type} (k : ErrKind) : (raise k : Except Stop α) = .error (.raise k) := rfl

/-- What a request's end can do: a payload or an error kind on the response port, and nothing else changed. -/
theorem finish_eq_next {s t : State} {x : Except Stop Payload} (h : finish s x = .next t) :
    (∃ p, x = .ok p ∧ t = s.answer (.ok p)) ∨ (∃ k, x = .error (.raise k) ∧ t = s.answer (.err k)) := by
  match x with
  | .ok p => injection h with h; exact .inl ⟨p, rfl, h.symm⟩
  | .error (.raise k) => injection h with h; exact .inr ⟨k, rfl, h.symm⟩
  | .error (.fault r) => cases h
  | .error (.refuse r) => cases h

/-! ### Reading the input buffer -/

theorem presented_of_le {s : State} {buf : List Byte} (h : buf.length ≤ s.params.maxInLen) : presented s buf = .ok () :=
  if_pos h

theorem presented_of_lt {s : State} {buf : List Byte} (h : s.params.maxInLen < buf.length) :
    presented s buf = .error (.refuse .inputTooLong) :=
  if_neg (Nat.not_le.mpr h)

theorem memRead_of_some {buf : List Byte} {i : Nat} {v : Byte} (h : buf[i]? = some v) : memRead buf i = .ok v := by
  simp [memRead, h]

theorem memRead_of_lt {buf : List Byte} {i : Nat} (h : i < buf.length) : memRead buf i = .ok (buf.getD i 0) := by
  simp [memRead, h]

/-- What a read of the input buffer can do: answer the byte at an index it holds. -/
theorem memRead_eq_ok {buf : List Byte} {i : Nat} {v : Byte} (h : memRead buf i = .ok v) : buf[i]? = some v := by
  unfold memRead at h
  split at h
  · injection h with h; rw [← h]; assumption
  · cases h

/-! ### Sums and checksums -/

@[simp] theorem byteSum_nil : byteSum [] = 0 := rfl
@[simp] theorem byteSum_cons (b : Byte) (bs : List Byte) : byteSum (b :: bs) = b.toNat + byteSum bs := by simp [byteSum]
@[simp] theorem byteSum_append (as bs : List Byte) : byteSum (as ++ bs) = byteSum as + byteSum bs := by simp [byteSum]

/-- The checksum as a number. -/
theorem ck8_toNat (bs : List Byte) : (ck8 bs).toNat = 0xFF - byteSum bs % 256 := by
  unfold ck8
  rw [BitVec.toNat_ofNat]
  omega

/-- A buffer taken apart at one of its bytes. -/
theorem eq_take_cons_drop {buf : List Byte} {k : Nat} {c : Byte} (h : buf[k]? = some c) :
    buf = buf.take k ++ c :: buf.drop (k + 1) := by
  obtain ⟨hk, rfl⟩ := List.getElem?_eq_some_iff.mp h
  rw [List.getElem_cons_drop, List.take_append_drop]

/-- What replacing one byte does to the sum. -/
theorem byteSum_set {buf : List Byte} {k : Nat} {a : Byte} (v : Byte) (h : buf[k]? = some a) :
    byteSum (buf.set k v) + a.toNat = byteSum buf + v.toNat := by
  obtain ⟨hk, rfl⟩ := List.getElem?_eq_some_iff.mp h
  have hsplit := congrArg byteSum (eq_take_cons_drop h)
  rw [List.set_eq_take_append_cons_drop, if_pos hk]
  rw [byteSum_append, byteSum_cons] at hsplit ⊢
  omega

/-- The stored checksum is right exactly when all the bytes add to 0xFF modulo 256 (40_checksum.md R102, second form). -/
theorem frameCk_eq_iff {buf : List Byte} {c : Byte} (hlen : 2 ≤ buf.length) (hc : buf[buf.length - 2]? = some c) :
    frameCk buf = c ↔ byteSum buf % 256 = 0xFF := by
  have hsplit : byteSum buf = byteSum (buf.take (buf.length - 2)) + (c.toNat + byteSum (buf.drop (buf.length - 1))) := by
    conv_lhs => rw [eq_take_cons_drop hc]
    rw [byteSum_append, byteSum_cons, show buf.length - 2 + 1 = buf.length - 1 by omega]
  have hck := ck8_toNat (buf.take (buf.length - 2) ++ buf.drop (buf.length - 1))
  rw [byteSum_append] at hck
  have hb := c.isLt
  rw [← BitVec.toNat_inj, frameCk, hck]
  omega

end Sys2Proof.Machine
end

