-- ==== Sys2Proof/Laws/Decoder.lean ====
section
/-! SUPPORT. What the decoder's two parts can do: its four checks, and the record it reads from a checked frame. -/

namespace Sys2Proof.Machine

open Sys2Proof

/-- The four checks pass exactly on a 32-byte buffer with its start byte, end byte and checksum. -/
theorem checkResponse_eq_ok_iff (b : List Byte) :
    checkResponse b = .ok () ↔
      b.length = 32 ∧ b[0]? = some 0xAA#8 ∧ b[31]? = some 0x55#8 ∧ b[30]? = some (frameCk b) := by
  by_cases hl : b.length = 32
  · have h0 : memRead b 0 = .ok b[0] := memRead_of_some (by simp [hl])
    have h31 : memRead b 31 = .ok b[31] := memRead_of_some (by simp [hl])
    have h30 : memRead b 30 = .ok b[30] := memRead_of_some (by simp [hl])
    have e0 : b[0]? = some b[0] := by simp [hl]
    have e31 : b[31]? = some b[31] := by simp [hl]
    have e30 : b[30]? = some b[30] := by simp [hl]
    rw [e0, e31, e30]
    simp only [checkResponse, rspLen, hl, ne_eq, not_true, if_false, h0, h31, h30, bind, Except.bind, pure, Except.pure,
      Option.some.injEq, true_and]
    by_cases a0 : b[0] = 0xAA#8 <;> by_cases a31 : b[31] = 0x55#8 <;> by_cases a30 : b[30] = frameCk b <;>
      simp [a0, a31, a30, raise]
  · simp [checkResponse, hl, raise, bind, Except.bind]

/-- A 16-bit field as a number: low byte first (20_memory.md R45). -/
theorem halfOfBytes_toNat (lo hi : Byte) : (halfOfBytes lo hi).toNat = lo.toNat + 256 * hi.toNat := by
  have hlo := lo.isLt
  have hhi := hi.isLt
  unfold halfOfBytes
  rw [BitVec.toNat_or, BitVec.toNat_shiftLeft]
  simp only [BitVec.truncate_eq_setWidth, BitVec.toNat_setWidth]
  rw [Nat.mod_eq_of_lt (by omega : lo.toNat < 2 ^ 16), Nat.mod_eq_of_lt (by omega : hi.toNat < 2 ^ 16), Nat.shiftLeft_eq,
    Nat.mod_eq_of_lt (by omega), Nat.or_comm, ← Nat.shiftLeft_eq, ← Nat.shiftLeft_add_eq_or_of_lt (by omega),
    Nat.shiftLeft_eq]
  omega

/-- Under a legal layout every index a field is read at lies in a 32-byte frame (30_encoding.md R87). -/
theorem respLayoutOk_lt {rl : RespLayout} (h : respLayoutOk rl = true) {k : Nat} (hk : k ∈ respIndices rl) : k < 32 := by
  have hall := (Bool.and_eq_true _ _ ▸ h).1
  have hk' := List.all_eq_true.mp hall k hk
  simp only [Bool.and_eq_true, decide_eq_true_eq] at hk'
  omega

theorem readHalf_of_lt {b : List Byte} {k : Nat} (h : k + 1 < b.length) :
    readHalf b k = .ok (halfOfBytes (b.getD k 0) (b.getD (k + 1) 0)) := by
  simp only [readHalf, memRead_of_lt h, memRead_of_lt (Nat.lt_of_succ_lt h), bind, Except.bind, pure, Except.pure]

/-- The record of a frame, every field from its own byte or bytes (43_decoder.md R160). -/
def recordOf (rl : RespLayout) (g : Nat → Byte) : Telemetry :=
  { responseType := g rl.responseType
    capabilityRaw := g rl.capabilityFlags
    extTempSensor := extTempSensorFlag (g rl.capabilityFlags)
    swingSupported := swingSupportedFlag (g rl.capabilityFlags)
    mode := modeOfByte (g rl.mode)
    fan := fanOfByte (g rl.fan)
    tempSetpoint := g rl.tempSetpoint
    inletTemp := g rl.inletTemp
    coilTempA := g rl.coilTempA
    coilTempB := g rl.coilTempB
    outsideTemp := g rl.outsideTemp
    currentReading := g currentReadingIndex
    currentMeasured := currentMeasuredFlag (g currentReadingIndex)
    timerStart := g rl.timerStart
    timerStop := g rl.timerStop
    modeFlagsRaw := g rl.modeFlags
    eco := (modeFlagsOf (g rl.modeFlags)).eco
    auxHeat := (modeFlagsOf (g rl.modeFlags)).auxHeat
    swing := (modeFlagsOf (g rl.modeFlags)).swing
    vent := (modeFlagsOf (g rl.modeFlags)).vent
    operationFlagsRaw := g rl.operationFlags
    waterPump := waterPumpFlag (g rl.operationFlags)
    waterLock := waterLockFlag (g rl.operationFlags)
    errorCode := halfOfBytes (g rl.errorCodeLo) (g (rl.errorCodeLo + 1))
    protectionCode := halfOfBytes (g rl.protectionCodeLo) (g (rl.protectionCodeLo + 1))
    commModuleErrorFlags := g rl.commModuleErrorFlags }

/-- Where every index lies in the buffer, the record is read without a fault. -/
theorem telemetryOf_of_lt {rl : RespLayout} {b : List Byte} (h : ∀ k ∈ currentReadingIndex :: respIndices rl, k < b.length) :
    telemetryOf rl b = .ok (recordOf rl (fun k => b.getD k 0)) := by
  simp only [respIndices, List.forall_mem_cons] at h
  obtain ⟨h15, h0, h1, h2, h3, h4, h5, h6, h7, h8, h9, h10, h11, h12, -, h13, -, h14, h16, -⟩ := h
  simp only [telemetryOf, memRead_of_lt, readHalf_of_lt, bind, Except.bind, pure, Except.pure, recordOf, *]

/-- A sequence of two that answers: the first answers a value and the second answers from it. -/
theorem bind_eq_ok {α β : Type} {x : Except Stop α} {f : α → Except Stop β} {r : β} :
    (x >>= f) = .ok r ↔ ∃ a, x = .ok a ∧ f a = .ok r := by
  cases x with
  | error e => simp [bind, Except.bind]
  | ok a => simp [bind, Except.bind]

/-- A read that answers is at an index the buffer holds. -/
theorem memRead_ok_lt {b : List Byte} {i : Nat} {v : Byte} (h : memRead b i = .ok v) : i < b.length :=
  (List.getElem?_eq_some_iff.mp (memRead_eq_ok h)).1

theorem readHalf_ok_lt {b : List Byte} {k : Nat} {v : Half} (h : readHalf b k = .ok v) : k + 1 < b.length := by
  simp only [readHalf, bind_eq_ok] at h
  obtain ⟨lo, -, hi, hhi, -⟩ := h
  exact memRead_ok_lt hhi

/-- What reading the record can do, where it answers: the record of the buffer's bytes, every index inside the buffer. -/
theorem telemetryOf_eq_ok {rl : RespLayout} {b : List Byte} {T : Telemetry} (h : telemetryOf rl b = .ok T) :
    T = recordOf rl (fun k => b.getD k 0) ∧ ∀ k ∈ currentReadingIndex :: respIndices rl, k < b.length := by
  have hlt : ∀ k ∈ currentReadingIndex :: respIndices rl, k < b.length := by
    simp only [telemetryOf, bind_eq_ok] at h
    obtain ⟨_, h0, _, h1, _, h2, _, h3, _, h4, _, h5, _, h6, _, h7, _, h8, _, h15, _, h9, _, h10, _, h11, _, h12, _, h13,
      _, h14, _, h16, -⟩ := h
    have e := readHalf_ok_lt h13
    have p := readHalf_ok_lt h14
    simp only [respIndices, List.forall_mem_cons]
    exact ⟨memRead_ok_lt h15, memRead_ok_lt h0, memRead_ok_lt h1, memRead_ok_lt h2, memRead_ok_lt h3, memRead_ok_lt h4,
      memRead_ok_lt h5, memRead_ok_lt h6, memRead_ok_lt h7, memRead_ok_lt h8, memRead_ok_lt h9, memRead_ok_lt h10,
      memRead_ok_lt h11, memRead_ok_lt h12, Nat.lt_of_succ_lt e, e, Nat.lt_of_succ_lt p, p, memRead_ok_lt h16, by simp⟩
  rw [telemetryOf_of_lt hlt] at h
  injection h with h
  exact ⟨h.symm, hlt⟩

end Sys2Proof.Machine
end

