-- ==== Sys2Proof/Laws/Encoder.lean ====
section
/-! SUPPORT. What `BuildCmd` can do: the frame it builds, or the first check that fails. -/

namespace Sys2Proof.Machine

open Sys2Proof

/-- The fifteen bytes of a command frame that its checksum covers, before and after index 14. -/
def commandCovered (v : Variant) (ct mb fb tb : Byte) : List Byte :=
  [0xAA, ct, 0x00, 0x00, 0x80, 0x00] ++ (match v with | .a => [0x00] | .b => [mb]) ++ [fb, tb, 0x00, 0x00]
    ++ (match v with | .a => [mb] | .b => [0x00]) ++ [0x00, 0x3C, 0x55]

/-- The frame `BuildCmd` builds (30_encoding.md R80), with the checksum over the other fifteen bytes at index 14. -/
def builtFrame (v : Variant) (ct mb fb tb : Byte) : List Byte :=
  (commandCovered v ct mb fb tb).take 14 ++ [ck8 (commandCovered v ct mb fb tb), 0x55]

/-- The output frame before the checksum is written, in canonical form. -/
def unsignedFrame (v : Variant) (ct mb fb tb : Byte) : Memory :=
  [(0, 0xAA), (1, ct), (2, 0x00), (3, 0x00), (4, 0x80), (5, 0x00), (6, match v with | .a => 0x00 | .b => mb), (7, fb),
   (8, tb), (9, 0x00), (10, 0x00), (11, match v with | .a => mb | .b => 0x00), (12, 0x00), (13, 0x3C), (15, 0x55)]

/-- The fifteen writes of `BuildCmd` leave the frame without its checksum. -/
theorem commandWrites_writeAll (v : Variant) (ct mb fb tb : Byte) :
    (do let ws ← commandWrites v ct mb fb tb; writeAll [] ws) = .ok (unsignedFrame v ct mb fb tb) := by
  cases v <;> rfl

/-- The checksum of the fifteen bytes. -/
theorem frameCkOut_unsignedFrame (v : Variant) (ct mb fb tb : Byte) :
    frameCkOut (unsignedFrame v ct mb fb tb) = .ok (ck8 (commandCovered v ct mb fb tb)) := by
  have h : readAll (unsignedFrame v ct mb fb tb) (List.range 14 ++ [15]) = .ok (commandCovered v ct mb fb tb) := by
    cases v <;> rfl
  rw [frameCkOut, h]
  rfl

/-- The last write, and the whole frame read off. -/
theorem wholeFrame_unsignedFrame (v : Variant) (ct mb fb tb ck : Byte) :
    (do let out ← writeAll (unsignedFrame v ct mb fb tb) [checksumWrite ck]; wholeFrame out)
      = .ok (.frame ((commandCovered v ct mb fb tb).take 14 ++ [ck, 0x55])) := by
  cases v <;> rfl

/-- Where the three checks pass, `BuildCmd` answers its frame. -/
theorem buildCmd_of_ok {cfg : Cfg} {ct : CommandType} {mode fan : BitVec 3} {t : BitVec 16} {mb fb tb : Byte}
    (hm : modeOperand mode = .ok mb) (hf : fanOperand fan = .ok fb) (ht : setpointOperand cfg t = .ok tb) :
    buildCmd cfg ct mode fan t
      = .ok (.frame (builtFrame (variantOf cfg.variant) (commandTypeByte ct) mb fb tb)) := by
  have hw := commandWrites_writeAll (variantOf cfg.variant) (commandTypeByte ct) mb fb tb
  have hc := frameCkOut_unsignedFrame (variantOf cfg.variant) (commandTypeByte ct) mb fb tb
  have hf' := wholeFrame_unsignedFrame (variantOf cfg.variant) (commandTypeByte ct) mb fb tb
    (ck8 (commandCovered (variantOf cfg.variant) (commandTypeByte ct) mb fb tb))
  cases hws : commandWrites (variantOf cfg.variant) (commandTypeByte ct) mb fb tb with
  | error e => rw [hws] at hw; cases hw
  | ok ws =>
    rw [hws] at hw
    simp only [bind, Except.bind] at hw hf'
    simp only [buildCmd, hm, hf, ht, hws, bind, Except.bind, hw, hc]
    exact hf'

/-- What `BuildCmd` can do: a frame when the three checks pass, else the kind of the first that fails
(42_encoder.md R140). -/
theorem buildCmd_cases (cfg : Cfg) (ct : CommandType) (mode fan : BitVec 3) (t : BitVec 16) :
    (∃ mb fb tb, modeOperand mode = .ok mb ∧ fanOperand fan = .ok fb ∧ setpointOperand cfg t = .ok tb
      ∧ buildCmd cfg ct mode fan t
          = .ok (.frame (builtFrame (variantOf cfg.variant) (commandTypeByte ct) mb fb tb)))
    ∨ (modeOfCode mode = none ∧ buildCmd cfg ct mode fan t = raise .unsupportedMode)
    ∨ (modeOfCode mode ≠ none ∧ fanOfCode fan = none ∧ buildCmd cfg ct mode fan t = raise .unsupportedFan)
    ∨ (modeOfCode mode ≠ none ∧ fanOfCode fan ≠ none
        ∧ (t.toInt < (cfg.tempMin.toNat : Int) ∨ (cfg.tempMax.toNat : Int) < t.toInt)
        ∧ buildCmd cfg ct mode fan t = raise .temperatureOutOfRange) := by
  cases hm : modeOfCode mode with
  | none => exact .inr (.inl ⟨rfl, by simp [buildCmd, modeOperand, hm, bind, Except.bind]⟩)
  | some m =>
    cases hf : fanOfCode fan with
    | none =>
      exact .inr (.inr (.inl ⟨by simp, rfl, by simp [buildCmd, modeOperand, fanOperand, hm, hf, bind, Except.bind]⟩))
    | some f =>
      by_cases ht : t.toInt < (cfg.tempMin.toNat : Int) ∨ (cfg.tempMax.toNat : Int) < t.toInt
      · exact .inr (.inr (.inr ⟨by simp, by simp, ht, by
          simp [buildCmd, modeOperand, fanOperand, setpointOperand, hm, hf, if_pos ht, bind, Except.bind]⟩))
      · have hm' : modeOperand mode = .ok (modeByte m) := by simp [modeOperand, hm]
        have hf' : fanOperand fan = .ok (fanByte f) := by simp [fanOperand, hf]
        have ht' : setpointOperand cfg t = .ok (t.setWidth 8) := if_neg ht
        exact .inl ⟨_, _, _, hm', hf', ht', buildCmd_of_ok hm' hf' ht'⟩

end Sys2Proof.Machine
end

