-- ==== Sys2Proof/Laws/Memory.lean ====
section
/-! SUPPORT. The byte space OUT: a read after a write, and the canonical form kept by every operation. -/

namespace Sys2Proof.Machine

open Sys2Proof

@[simp] theorem Memory.read_nil (i : Nat) : Memory.read [] i = none := rfl

theorem Memory.wf_tail (c : Host.Cell) (m : Memory) (h : Memory.wf (c :: m) = true) : Memory.wf m = true := by
  cases m with
  | nil => rfl
  | cons d m => exact (Bool.and_eq_true _ _ ▸ h).2

/-- What a byte reads as after a write, at every address. -/
theorem Memory.read_write (m : Memory) (i j : Nat) (v : Byte) :
    (m.write i v).read j = if j = i then some v else m.read j := by
  induction m with
  | nil => simp [Memory.write, Memory.read]
  | cons c m ih =>
    obtain ⟨a, b⟩ := c
    simp only [Memory.write]
    split
    · simp [Memory.read]
    · split
      · subst_vars
        simp only [Memory.read]
        split <;> rfl
      · simp only [Memory.read, ih]
        grind

@[simp] theorem Memory.read_write_same (m : Memory) (i : Nat) (v : Byte) : (m.write i v).read i = some v := by
  simp [Memory.read_write]

theorem Memory.read_write_other (m : Memory) (i j : Nat) (v : Byte) (h : j ≠ i) :
    (m.write i v).read j = m.read j := by
  simp [Memory.read_write, h]

/-- A write keeps the canonical form. -/
theorem Memory.wf_write (m : Memory) (i : Nat) (v : Byte) (h : m.wf = true) : (m.write i v).wf = true := by
  induction m with
  | nil => rfl
  | cons c m ih =>
    obtain ⟨a, b⟩ := c
    have ihm := ih (Memory.wf_tail _ _ h)
    cases m with
    | nil => grind [Memory.write, Memory.wf]
    | cons d m => obtain ⟨a', b'⟩ := d; grind [Memory.write, Memory.wf]

/-- What `memWrite` can do: one write, at an index of the frame. -/
theorem memWrite_eq_ok {out out' : Memory} {i : Nat} {v : Byte} (h : memWrite out i v = .ok out') :
    i < cmdLen ∧ out' = out.write i v := by
  unfold memWrite at h
  split at h
  · exact ⟨‹_›, by injection h with h; exact h.symm⟩
  · cases h

theorem memWrite_of_lt (out : Memory) (i : Nat) (v : Byte) (h : i < cmdLen) : memWrite out i v = .ok (out.write i v) :=
  if_pos h

/-- What `outRead` can do: answer the byte written at that index. -/
theorem outRead_eq_ok {out : Memory} {i : Nat} {b : Byte} (h : outRead out i = .ok b) : out.read i = some b := by
  unfold outRead at h
  split at h
  · injection h with h; rw [← h]; assumption
  · cases h

/-- Two sequences of writes, one after the other. -/
theorem writeAll_append (ws ws' : List Host.Cell) (out : Memory) :
    writeAll out (ws ++ ws') = (do let out ← writeAll out ws; writeAll out ws') := by
  induction ws generalizing out with
  | nil => rfl
  | cons w ws ih =>
    obtain ⟨i, v⟩ := w
    cases hw : memWrite out i v with
    | error e => simp [writeAll, hw, bind, Except.bind]
    | ok out₁ => simpa [writeAll, hw, bind, Except.bind] using ih out₁

/-- A sequence of writes keeps the canonical form. -/
theorem writeAll_wf (ws : List Host.Cell) (out out' : Memory) (hwf : out.wf = true) (h : writeAll out ws = .ok out') :
    out'.wf = true := by
  induction ws generalizing out with
  | nil => cases h; exact hwf
  | cons w ws ih =>
    obtain ⟨i, v⟩ := w
    rw [writeAll] at h
    cases hw : memWrite out i v with
    | error e => rw [hw] at h; cases h
    | ok out₁ =>
      rw [hw] at h
      exact ih out₁ ((memWrite_eq_ok hw).2 ▸ Memory.wf_write out i v hwf) h

end Sys2Proof.Machine
end

