-- ==== Sys2Proof/Laws/PerInstr.lean ====
section
/-! SUPPORT. Statements about every operation as syntax, one lemma per constructor. `EncodedFits`: an operation is well formed
for a block exactly when its encoding's input buffer fits `MAX_IN_LEN`. -/

namespace Sys2Proof.Laws

open Sys2Proof

/-- The encoding's buffer fits exactly when the operation is well formed (10_state.md R28). -/
def EncodedFits.Statement (i : Instr) : Prop :=
  ∀ n : Nat, i.wellFormed n = true ↔ (encode i).inBuf.length ≤ n

theorem EncodedFits.encq : EncodedFits.Statement .encq := fun n => by
  simp [Instr.wellFormed, encode, bareRequest]

theorem EncodedFits.encset (m f : BitVec 3) (t : BitVec 16) : EncodedFits.Statement (.encset m f t) := fun n => by
  simp [Instr.wellFormed, encode, commandRequest, bareRequest]

theorem EncodedFits.enclock (m f : BitVec 3) (t : BitVec 16) : EncodedFits.Statement (.enclock m f t) := fun n => by
  simp [Instr.wellFormed, encode, commandRequest, bareRequest]

theorem EncodedFits.encunlock (m f : BitVec 3) (t : BitVec 16) : EncodedFits.Statement (.encunlock m f t) := fun n => by
  simp [Instr.wellFormed, encode, commandRequest, bareRequest]

theorem EncodedFits.decode (buf : List Byte) : EncodedFits.Statement (.decode buf) := fun n => by
  simp [Instr.wellFormed, encode, bufferRequest]

theorem EncodedFits.cksum (buf : List Byte) : EncodedFits.Statement (.cksum buf) := fun n => by
  simp [Instr.wellFormed, encode, bufferRequest]

theorem EncodedFits.verify (buf : List Byte) : EncodedFits.Statement (.verify buf) := fun n => by
  simp [Instr.wellFormed, encode, bufferRequest]

theorem EncodedFits.offsetof (field : BitVec 4) : EncodedFits.Statement (.offsetof field) := fun n => by
  simp [Instr.wellFormed, encode, bareRequest]

end Sys2Proof.Laws
end

