-- ==== Sys2Proof/Laws/Serve.lean ====
section
/-! SUPPORT. What a step can do: wait, serve a request, or reset. -/

namespace Sys2Proof.Machine

open Sys2Proof

theorem step_of_nil {s : State} (h : s.inputs = []) : step s = .next s := by
  simp [step, serveNext, h]

theorem step_of_cons {s : State} {x : HostInput} {rest : List HostInput} (h : s.inputs = x :: rest) :
    step s = serveInput x { s with inputs := rest } := by
  simp [step, serveNext, h]

theorem serveRequest_of_ok {r : Request} {i : Instr} (s : State) (h : decode r = .ok i) :
    serveRequest r s = exec i s := by
  simp [serveRequest, h]

theorem serveRequest_of_error {r : Request} {e : DecodeReject} (s : State) (h : decode r = .error e) :
    serveRequest r s = .next (s.answer (.err .illegalRequest)) := by
  simp [serveRequest, h]

/-- What a step that answers can do: nothing, run a decoded request's operation, turn an illegal request away, or reset. -/
theorem step_cases {s t : State} (h : step s = .next t) :
    (s.inputs = [] ∧ t = s)
    ∨ (∃ r rest i, s.inputs = .request r :: rest ∧ decode r = .ok i ∧ exec i { s with inputs := rest } = .next t)
    ∨ (∃ r rest e, s.inputs = .request r :: rest ∧ decode r = .error e
        ∧ t = State.answer { s with inputs := rest } (.err .illegalRequest))
    ∨ (∃ d p rest, s.inputs = .reset d p :: rest ∧ t = loadReset p { s with inputs := rest }) := by
  cases hi : s.inputs with
  | nil => rw [step_of_nil hi] at h; injection h with h; exact .inl ⟨rfl, h.symm⟩
  | cons x rest =>
    rw [step_of_cons hi] at h
    cases x with
    | request r =>
      cases hd : decode r with
      | ok i =>
        rw [serveInput, serveRequest_of_ok _ hd] at h
        exact .inr (.inl ⟨r, rest, i, rfl, hd, h⟩)
      | error e =>
        rw [serveInput, serveRequest_of_error _ hd] at h
        injection h with h
        exact .inr (.inr (.inl ⟨r, rest, e, rfl, hd, h.symm⟩))
    | reset d p =>
      injection h with h
      exact .inr (.inr (.inr ⟨d, p, rest, rfl, h.symm⟩))

/-- Every operation ends its request through `finish` with a result that the registers and parameters alone decide. -/
theorem exec_eq_finish (i : Instr) (s : State) :
    ∃ x : Except Stop Payload, ∀ s' : State, s'.cfg = s.cfg → s'.params = s.params → exec i s' = finish s' x := by
  cases i with
  | encq => exact ⟨do let out ← writeAll [] queryWrites; wholeFrame out, fun _ _ _ => rfl⟩
  | encset m f t => exact ⟨buildCmd s.cfg .set m f t, fun s' hc _ => by rw [← hc]; rfl⟩
  | enclock m f t => exact ⟨buildCmd s.cfg .lock m f t, fun s' hc _ => by rw [← hc]; rfl⟩
  | encunlock m f t => exact ⟨buildCmd s.cfg .unlock m f t, fun s' hc _ => by rw [← hc]; rfl⟩
  | decode buf =>
    refine ⟨do presented s buf; checkResponse buf; let t ← telemetryOf s.params.respLayout buf; return .telem t, ?_⟩
    intro s' _ hp
    rw [exec, execDecode, hp, presented, presented, hp]
  | cksum buf =>
    refine ⟨do presented s buf; return .byte (ck8 buf), ?_⟩
    intro s' _ hp
    rw [exec, execCksum, presented, presented, hp]
  | verify buf =>
    refine ⟨do
      presented s buf
      if buf.length < 2 then raise .wrongLength
      let stored ← memRead buf (buf.length - 2)
      return .bool (frameCk buf == stored), ?_⟩
    intro s' _ hp
    rw [exec, execVerify, presented, presented, hp]
  | offsetof field =>
    refine ⟨match fieldOfId field with
      | none => raise .unsupportedField
      | some f =>
        match layout (variantOf s.cfg.variant) f with
        | none => raise .unsupportedField
        | some k => .ok (.byte (BitVec.ofNat 8 k)), ?_⟩
    intro s' hc _
    rw [← hc]
    rfl

end Sys2Proof.Machine
end

