-- ==== Sys2Proof/Tests/Slice0.lean ====
section
/-! SUPPORT. Tests. The expected values are those of 95_test_vectors.md, whose vector each test names. After them, for every
statement with hypotheses, a `witness_` theorem: a concrete state and operands that meet the hypotheses together. -/

namespace Sys2Proof.Tests

open Sys2Proof Sys2Proof.Machine Sys2Proof.Claims

/-- The state after reset with the registers loaded as 95_test_vectors.md's configurations load them. -/
def config (variant : BitVec 1) (tempMin tempMax : Byte) : State :=
  { State.reset with cfg := { variant := variant, tempMin := tempMin, tempMax := tempMax } }

/-- Configurations A and B of 95_test_vectors.md. -/
def stateA : State := config 0 16 30
def stateB : State := config 1 16 30

/-- The state with a request presented. -/
def presenting (s : State) (r : Request) : State := presentFirst r s

/-- The frame of vector DEC-1. -/
def dec1 : List Byte :=
  [0xAA, 0xC0, 0x80, 0x00, 0x00, 0x00, 0x00, 0x90, 0x88, 0x01, 0x18, 0x4A, 0x3C, 0x3D, 0x50, 0xFF,
   0x00, 0x00, 0x00, 0x00, 0x88, 0x84, 0x34, 0x12, 0x02, 0x00, 0x00, 0x00, 0x00, 0x00, 0x29, 0x55]

/-- The frame of vector DEC-3. -/
def dec3 : List Byte :=
  [0xAA, 0xC0, 0x80, 0x00, 0x00, 0x00, 0x00, 0x90, 0x42, 0x00, 0x18, 0x4A, 0x3C, 0x3D, 0x50, 0xFF,
   0x00, 0x00, 0x00, 0x00, 0x89, 0x80, 0x34, 0x12, 0x02, 0x00, 0x00, 0x00, 0x00, 0x00, 0x73, 0x55]

/-! ### Decoding: one word per operation, written out bit by bit from 30_encoding.md R60, R61 (FIELD, then OP) -/

theorem test_word_encq : decode (bareRequest 0b0000_0000#8) = .ok .encq := by decide
theorem test_word_encset : decode (commandRequest 0b0000_0001#8 3 1 24) = .ok (.encset 3 1 24) := by decide
theorem test_word_enclock : decode (commandRequest 0b0000_0010#8 5 2 21) = .ok (.enclock 5 2 21) := by decide
theorem test_word_encunlock : decode (commandRequest 0b0000_0011#8 0 0 18) = .ok (.encunlock 0 0 18) := by decide
theorem test_word_decode : decode (bufferRequest 0b0000_0100#8 dec1) = .ok (.decode dec1) := by decide
theorem test_word_cksum : decode (bufferRequest 0b0000_0101#8 [0xFF]) = .ok (.cksum [0xFF]) := by decide
theorem test_word_verify : decode (bufferRequest 0b0000_0110#8 [0, 0xFF]) = .ok (.verify [0, 0xFF]) := by decide
theorem test_word_offsetof : decode (bareRequest 0b0101_0111#8) = .ok (.offsetof 5) := by decide
/-- RQ-1, RQ-6 and RQ-10: rejected by name, before any operand. -/
theorem test_word_rejects :
    decode (bareRequest 0x08) = .error .reservedOp ∧ decode (bareRequest 0xF6) = .error .strayField
    ∧ decode (commandRequest 0x11 7 5 999) = .error .strayField := by decide

/-! ### WellFormed: the check refuses a buffer longer than `MAX_IN_LEN`, here 33 -/

theorem test_wellFormed_refuses_overlong :
    ∀ i ∈ [Instr.decode (List.replicate 34 0), .cksum (List.replicate 34 0), .verify (List.replicate 34 0)],
      i.wellFormed 33 = false := by decide
theorem test_wellFormed_admits_longest : (Instr.cksum (List.replicate 33 0)).wellFormed 33 = true := by decide

/-! ### One step of each operation -/

/-- ENC-2. -/
theorem test_encq_under_B :
    responseAfter (step (presenting stateB (bareRequest 0x00))) = some (.ok (.frame queryFrame)) := by decide

/-- ENC-4. -/
theorem test_encset_under_B :
    responseAfter (step (presenting stateB (commandRequest 0x01 3 1 24))) = some (.ok (.frame
      [0xAA, 0xC3, 0x00, 0x00, 0x80, 0x00, 0x88, 0x01, 0x18, 0x00, 0x00, 0x00, 0x00, 0x3C, 0xE0, 0x55])) := by decide

/-- ENC-E8: all three checks fail. -/
theorem test_encset_precedence :
    responseAfter (exec (.encset 7 6 99) stateA) = some (.err .unsupportedMode) := by decide

/-- ENC-12. -/
theorem test_enclock_under_A :
    responseAfter (exec (.enclock 3 1 24) stateA) = some (.ok (.frame
      [0xAA, 0xCC, 0x00, 0x00, 0x80, 0x00, 0x00, 0x01, 0x18, 0x00, 0x00, 0x88, 0x00, 0x3C, 0xD7, 0x55])) := by decide

/-- ENC-15. -/
theorem test_encunlock_under_B :
    responseAfter (exec (.encunlock 0 0 18) stateB) = some (.ok (.frame
      [0xAA, 0xCD, 0x00, 0x00, 0x80, 0x00, 0x00, 0x80, 0x12, 0x00, 0x00, 0x00, 0x00, 0x3C, 0xE5, 0x55])) := by decide

/-- ENC-E11: the least setpoint, under A-wide. -/
theorem test_encunlock_negative_setpoint :
    responseAfter (exec (.encunlock 0 4 (-32768)) (config 0 0 255)) = some (.err .temperatureOutOfRange) := by decide

/-- DEC-3: unknown mode and fan, and mode flags 0x89, which are not VENT. -/
theorem test_decode_dec3 :
    responseAfter (exec (.decode dec3) stateA) = some (.ok (.telem
      { responseType := 0xC0, capabilityRaw := 0x90, extTempSensor := true, swingSupported := true,
        mode := .unknown 0x42, fan := .unknown 0x00, tempSetpoint := 0x18, inletTemp := 0x4A, coilTempA := 0x3C,
        coilTempB := 0x3D, outsideTemp := 0x50, currentReading := 0xFF, currentMeasured := false, timerStart := 0x00,
        timerStop := 0x00, modeFlagsRaw := 0x89, eco := true, auxHeat := false, swing := false, vent := false,
        operationFlagsRaw := 0x80, waterPump := false, waterLock := true, errorCode := 0x1234,
        protectionCode := 0x0002, commModuleErrorFlags := 0x00 })) := by decide

/-- DEC-E11: end byte and checksum wrong. -/
theorem test_decode_first_failed_check :
    responseAfter (exec (.decode ((dec1.set 30 0).set 31 0)) stateA) = some (.err .badEndByte) := by decide

/-- CK-10. -/
theorem test_cksum_covered_bytes :
    responseAfter (exec (.cksum [0xAA, 0xC3, 0, 0, 0x80, 0, 0, 1, 0x18, 0, 0, 0x88, 0, 0x3C, 0x55]) stateA)
      = some (.ok (.byte 0xE0)) := by decide

/-- CK-4. -/
theorem test_cksum_wraps : responseAfter (exec (.cksum [0xFF, 0x01]) stateA) = some (.ok (.byte 0xFF)) := by decide

/-- VF-9: the end byte is covered. -/
theorem test_verify_covers_end_byte :
    responseAfter (exec (.verify (queryFrame.set 15 0x54)) stateA) = some (.ok (.bool false)) := by decide

/-- VF-8: a compensating change. -/
theorem test_verify_compensating_change :
    responseAfter (exec (.verify ((dec1.set 3 0x01).set 4 0xFF)) stateA) = some (.ok (.bool true)) := by decide

/-- OFF-14 and OFF-6. -/
theorem test_offsetof_mode_flags :
    responseAfter (step (presenting stateB (bareRequest 0x57))) = some (.ok (.byte 12))
    ∧ responseAfter (step (presenting stateA (bareRequest 0x57))) = some (.err .unsupportedField) := by decide

/-- OFF-8: id 15 is `UnsupportedField`, not `IllegalRequest`. -/
theorem test_offsetof_id_15 : responseAfter (exec (.offsetof 15) stateA) = some (.err .unsupportedField) := by decide

/-- RQ-4, with a buffer that could not be presented. -/
theorem test_illegal_before_operands :
    responseAfter (step (presenting stateA (bufferRequest 0x14 (List.replicate 34 0)))) = some (.err .illegalRequest) := by
  decide

/-- The default layout and parameters are legal (30_encoding.md R87). -/
theorem test_default_params_legal : paramsOk defaultParams = true := by decide

/-- A layout whose `errorCode` high byte falls on `currentReading` is not legal (30_encoding.md R87). -/
theorem test_layout_refuses_overlap : respLayoutOk { defaultRespLayout with errorCodeLo := 14, outsideTemp := 2 } = false := by
  decide

/-! ### Witnesses: the hypotheses of each statement met together -/

theorem witness_StepRunsTheDecodedRequest :
    (presenting stateA (bareRequest 0x57)).inputs = .request (bareRequest 0x57) :: []
    ∧ decode (bareRequest 0x57) = .ok (.offsetof 5) := by decide

theorem witness_PlacedTableWordRunsNext :
    decodeTableWord 8 0x00 = some .encq ∧ decodeTableWord 8 0xF7 = some (.offsetof 15) := by decide

theorem witness_IdleBlockWaits : State.reset.inputs = [] := by decide

theorem witness_DecodeInvertsEncode :
    decode { req := 0x03, opdMode := 7, opdFan := 7, opdSetpoint := 0xFFFF, inBuf := [1] } = .ok (.encunlock 7 7 0xFFFF)
    ∧ decode { req := 0x04, opdMode := 7, opdFan := 7, opdSetpoint := 0xFFFF, inBuf := [1] } = .ok (.decode [1])
    ∧ decode { req := 0xF7, opdMode := 7, opdFan := 7, opdSetpoint := 0xFFFF, inBuf := [1] } = .ok (.offsetof 15) := by
  decide

/-- Both sides of the test at their boundary words: 0x08, 0x0F, 0x16 and 0xF0 are illegal; 0x06, 0x07 and 0xF7 are not. -/
theorem witness_IllegalWordsAnswerIllegalRequest :
    (∀ w ∈ [0x08#8, 0x0F#8, 0x16#8, 0xF0#8], 8 ≤ opNumber (bareRequest w)
      ∨ (opNumber (bareRequest w) ≤ 6 ∧ fieldNumber (bareRequest w) ≠ 0))
    ∧ (∀ w ∈ [0x06#8, 0x07#8, 0xF7#8], ¬ (8 ≤ opNumber (bareRequest w)
      ∨ (opNumber (bareRequest w) ≤ 6 ∧ fieldNumber (bareRequest w) ≠ 0)))
    ∧ ∀ w ∈ [0x08#8, 0x0F#8, 0x16#8, 0xF0#8, 0x06#8, 0x07#8, 0xF7#8],
        (presenting stateA (bareRequest w)).inputs = .request (bareRequest w) :: [] := by decide

/-- Two requests, and both their places. -/
theorem witness_RequestsServedInOrder :
    respLayoutOk stateA.params.respLayout = true
    ∧ (∀ r ∈ [bareRequest 0x08, bufferRequest 0x04 dec1], r.inBuf.length ≤ stateA.params.maxInLen)
    ∧ ({ stateA with inputs := [.request (bareRequest 0x08), .request (bufferRequest 0x04 dec1)] } : State).inputs
        = [bareRequest 0x08, bufferRequest 0x04 dec1].map HostInput.request
    ∧ [bareRequest 0x08, bufferRequest 0x04 dec1][0]? = some (bareRequest 0x08)
    ∧ [bareRequest 0x08, bufferRequest 0x04 dec1][1]? = some (bufferRequest 0x04 dec1) := by decide

theorem witness_ResetLoadsTheRegisters :
    ({ stateA with inputs := [.reset (some (bareRequest 0x00)) { variant := 1, tempMin := 20, tempMax := 10 }] } : State).inputs
      = .reset (some (bareRequest 0x00)) { variant := 1, tempMin := 20, tempMax := 10 } :: [] := by decide

/-- A step that changes the registers. -/
theorem witness_RegistersChangeOnlyByReset :
    ∃ t : State, step { stateA with inputs := [.reset none { variant := 1, tempMin := 20, tempMax := 10 }] } = .next t
      ∧ t.cfg ≠ stateA.cfg := ⟨_, rfl, by decide⟩

theorem witness_OperationsChangeOnlyTheResponse : ∃ t : State, exec .encq stateA = .next t := ⟨_, rfl⟩

theorem witness_BlockIsAFunctionOfRegistersAndRequest :
    respLayoutOk stateA.params.respLayout = true
    ∧ (presenting stateA (bufferRequest 0x04 dec1)).params = stateA.params
    ∧ (presenting stateA (bufferRequest 0x04 dec1)).inputs = .request (bufferRequest 0x04 dec1) :: []
    ∧ (bufferRequest 0x04 dec1).inBuf.length ≤ stateA.params.maxInLen := by decide

/-- A request that fails, and the same request with a setpoint within the bound behind it (program P2). -/
theorem witness_RequestsLeaveNothingBehind :
    ∃ t : State, step { stateA with inputs := [.request (commandRequest 0x01 3 1 35), .request (commandRequest 0x01 3 1 24)] }
        = .next t ∧ t.response = some (.err .temperatureOutOfRange) := ⟨_, rfl, by decide⟩

theorem witness_StepKeepsTheInvariant :
    ∃ t : State, (presenting stateA (bareRequest 0x00)).Inv ∧ step (presenting stateA (bareRequest 0x00)) = .next t :=
  ⟨_, by decide, rfl⟩

theorem witness_StepNeverStops : (presenting stateA (bufferRequest 0x04 dec1)).Inv := by decide

theorem witness_OnlyOverlongBuffersStop :
    respLayoutOk stateA.params.respLayout = true
    ∧ exec (.cksum (List.replicate 34 0)) stateA = .refused .inputTooLong := ⟨by decide, rfl⟩

theorem witness_OverlongBufferIsRefused :
    stateA.params.maxInLen < (List.replicate 34 (0 : Byte)).length := by decide

theorem witness_StatusNumbersAndPayloadPorts : (Response.err .illegalRequest).status ≠ 0#4 := by decide

/-- An error of each operation that has any. -/
theorem witness_ErrorKindsBelongToTheirOperations :
    ∀ x ∈ [(Instr.encset 7 0 16, ErrKind.unsupportedMode), (.enclock 0 5 16, .unsupportedFan),
        (.encunlock 0 0 31, .temperatureOutOfRange), (.decode [], .wrongLength), (.verify [0x55], .wrongLength),
        (.offsetof 6, .unsupportedField)],
      responseAfter (exec x.1 stateA) = some (.err x.2) := by decide

/-- A payload of each operation. -/
theorem witness_PayloadsBelongToTheirOperations :
    ∀ i ∈ [Instr.encq, .encset 0 0 16, .enclock 0 0 16, .encunlock 0 0 16, .decode dec1, .cksum [], .verify [0, 0xFF],
        .offsetof 0],
      ((responseAfter (exec i stateA)).map Response.status) = some 0#4 := by decide

theorem witness_OnlyOffsetofReportsUnsupportedField :
    responseAfter (exec (.offsetof 5) stateA) = some (.err .unsupportedField) := by decide

theorem witness_CksumIsTheComplementOfTheSum :
    ([] : List Byte).length ≤ stateA.params.maxInLen ∧ (List.replicate 33 (0xFF : Byte)).length ≤ stateA.params.maxInLen := by
  decide

theorem witness_CksumIgnoresByteOrder : [0x01#8, 0x02#8, 0xFF#8].Perm [0xFF#8, 0x01#8, 0x02#8] := by decide

/-- The shortest and the longest buffer. -/
theorem witness_VerifyTestsTheSumOfAllBytes :
    ∀ b ∈ [[0x00#8, 0xFF#8], List.replicate 33 0x00#8], b.length ≤ stateA.params.maxInLen ∧ 2 ≤ b.length := by decide

theorem witness_VerifyNeedsTwoBytes :
    ∀ b ∈ [[], [0x55#8]], b.length ≤ stateA.params.maxInLen ∧ b.length < 2 := by decide

/-- A change of the first and of the last byte of the query frame. -/
theorem witness_VerifyDetectsEveryOneByteChange :
    responseAfter (exec (.verify queryFrame) stateA) = some (.ok (.bool true))
    ∧ 0 < queryFrame.length ∧ queryFrame[0]? ≠ some 0xAB#8 ∧ 15 < queryFrame.length ∧ queryFrame[15]? ≠ some 0x54#8 := by
  decide

theorem witness_VerifyMissesCompensatingChanges :
    responseAfter (exec (.verify dec1) stateA) = some (.ok (.bool true))
    ∧ dec1[3]? = some 0x00#8 ∧ dec1[30]? = some 0x29#8 ∧ (0x01#8 - 0x00#8) + (0x28#8 - 0x29#8) = 0#8 := by decide

theorem witness_FrameChecksumFromInnerBytes :
    ∀ f ∈ [[0xAA#8, 0x00#8, 0x55#8], queryFrame],
      3 ≤ f.length ∧ f[0]? = some 0xAA#8 ∧ f[f.length - 1]? = some 0x55#8 := by decide

/-- The first and the last mode and fan codes, at both ends of the bound. -/
theorem witness_CommandsAnswerTheirFrames :
    modeBytes[(0#3).toNat]? = some 0x00#8 ∧ fanBytes[(0#3).toNat]? = some 0x80#8 ∧ inRange stateA.cfg 16#16
    ∧ modeBytes[(6#3).toNat]? = some 0x81#8 ∧ fanBytes[(4#3).toNat]? = some 0x04#8 ∧ inRange stateA.cfg 30#16 := by decide

/-- Each of the three clauses at its boundary: mode 7; mode 6 and fan 5; mode 6, fan 4 and setpoints just outside the bound. -/
theorem witness_CommandErrorsComeInOrder :
    7#3 = 7#3 ∧ (6#3 ≠ 7#3 ∧ 5 ≤ (5#3).toNat)
    ∧ (6#3 ≠ 7#3 ∧ (4#3).toNat < 5 ∧ ¬ inRange stateA.cfg 15#16 ∧ ¬ inRange stateA.cfg 31#16)
    ∧ (Instr.enclock 6 5 99, 0xCC#8) ∈ commands 6 5 99 := by decide

/-- Each clause at both of its ends. -/
theorem witness_SetpointIsCheckedAgainstBothBounds :
    6#3 ≠ 7#3 ∧ (4#3).toNat < 5 ∧ (Instr.encset 6 4 16, 0xC3#8) ∈ commands 6 4 16
    ∧ (15#16).toInt < (stateA.cfg.tempMin.toNat : Int) ∧ (stateA.cfg.tempMax.toNat : Int) < (31#16).toInt
    ∧ (stateA.cfg.tempMin.toNat : Int) ≤ (16#16).toInt ∧ (16#16).toInt ≤ (stateA.cfg.tempMax.toNat : Int)
    ∧ (stateA.cfg.tempMin.toNat : Int) ≤ (30#16).toInt ∧ (30#16).toInt ≤ (stateA.cfg.tempMax.toNat : Int)
    ∧ (0xFFFF#16).toInt < 0 ∧ 255 < (256#16).toInt := by decide

theorem witness_EmptyBoundRejectsEverySetpoint :
    (config 0 20 10).cfg.tempMax.toNat < (config 0 20 10).cfg.tempMin.toNat ∧ 3#3 ≠ 7#3 ∧ (1#3).toNat < 5
    ∧ (Instr.encset 3 1 15, 0xC3#8) ∈ commands 3 1 15 := by decide

theorem witness_AnsweredFramesVerify :
    responseAfter (exec .encq stateA) = some (.ok (.frame queryFrame)) ∧ 16 ≤ stateA.params.maxInLen := by decide

theorem witness_DifferentCommandsGiveDifferentFrames :
    ∃ u u' : State, ∃ f f' : List Byte, stateA.cfg.variant = (config 0 0 255).cfg.variant
      ∧ (Instr.encset 3 1 24, 0xC3#8) ∈ commands 3 1 24 ∧ (Instr.enclock 3 1 40, 0xCC#8) ∈ commands 3 1 40
      ∧ exec (.encset 3 1 24) stateA = .next u ∧ u.response = some (.ok (.frame f))
      ∧ exec (.enclock 3 1 40) (config 0 0 255) = .next u' ∧ u'.response = some (.ok (.frame f'))
      ∧ Instr.encset 3 1 24 ≠ Instr.enclock 3 1 40 :=
  ⟨_, _, _, _, by decide, by decide, by decide, rfl, rfl, rfl, rfl, by decide⟩

/-- Mode `Off`, for both clauses. -/
theorem witness_VariantsMoveOnlyTheModeByte :
    ∃ u u' : State, ∃ f f' : List Byte, (Instr.encset 0 1 24, 0xC3#8) ∈ commands 0 1 24
      ∧ exec (.encset 0 1 24) { stateA with cfg := { stateA.cfg with variant := 0#1 } } = .next u
      ∧ u.response = some (.ok (.frame f))
      ∧ exec (.encset 0 1 24) { stateA with cfg := { stateA.cfg with variant := 1#1 } } = .next u'
      ∧ u'.response = some (.ok (.frame f')) :=
  ⟨_, _, _, _, by decide, rfl, rfl, rfl, rfl⟩

/-- The first and the last mode and fan codes, at both ends of the bound, under both variants. -/
theorem witness_EachFrameIndexIsWrittenOnce :
    ∀ v ∈ [0#1, 1#1],
      modeBytes[(0#3).toNat]? = some 0x00#8 ∧ fanBytes[(0#3).toNat]? = some 0x80#8 ∧ inRange (config v 16 30).cfg 16#16
      ∧ modeBytes[(6#3).toNat]? = some 0x81#8 ∧ fanBytes[(4#3).toNat]? = some 0x04#8 ∧ inRange (config v 16 30).cfg 30#16
      ∧ (Instr.encunlock 6 4 30, 0xCD#8) ∈ commands 6 4 30 := by decide

theorem witness_DecodeAnswersTheRecord :
    respLayoutOk stateA.params.respLayout = true ∧ dec1.length ≤ stateA.params.maxInLen ∧ accepted dec1
    ∧ accepted dec3 := by decide

/-- Each of the four clauses: lengths 31 and 33, a wrong start byte, a wrong end byte, a checksum one off. -/
theorem witness_DecodeReportsTheFirstFailedCheck :
    (∀ b ∈ [dec1.take 31, dec1 ++ [0x55]], b.length ≤ stateA.params.maxInLen ∧ b.length ≠ 32)
    ∧ ((dec1.set 0 0xAB).length = 32 ∧ (dec1.set 0 0xAB)[0]? ≠ some 0xAA#8)
    ∧ ((dec1.set 31 0x54).length = 32 ∧ (dec1.set 31 0x54)[0]? = some 0xAA#8 ∧ (dec1.set 31 0x54)[31]? ≠ some 0x55#8)
    ∧ ((dec1.set 30 0x28).length = 32 ∧ (dec1.set 30 0x28)[0]? = some 0xAA#8 ∧ (dec1.set 30 0x28)[31]? = some 0x55#8
      ∧ total (dec1.set 30 0x28) % 256 ≠ 0xFF) := by decide

/-- A change at each end and beside each end. -/
theorem witness_DecodeRejectsEveryOneByteChange :
    (∃ u : State, ∃ T : Telemetry, exec (.decode dec1) stateA = .next u ∧ u.response = some (.ok (.telem T)))
    ∧ ∀ k ∈ [0, 1, 30, 31], k < 32 ∧ dec1[k]? ≠ some 0x77#8 := ⟨⟨_, _, rfl, rfl⟩, by decide⟩

/-- DEC-1 and DEC-10, which differ at the undecoded index 3 and the checksum. -/
theorem witness_EachFieldDependsOnItsOwnBytes :
    (∃ u u' : State, ∃ T T' : Telemetry, exec (.decode dec1) stateA = .next u ∧ u.response = some (.ok (.telem T))
      ∧ exec (.decode ((dec1.set 3 0x77).set 30 0xB2)) stateA = .next u' ∧ u'.response = some (.ok (.telem T')))
    ∧ ∀ k ∈ 15 :: respIndices stateA.params.respLayout, dec1[k]? = ((dec1.set 3 0x77).set 30 0xB2)[k]? :=
  ⟨⟨_, _, _, _, rfl, rfl, rfl, rfl⟩, by decide⟩

theorem witness_DecodeIgnoresTheRegisters :
    ∃ t : State, Instr.decode dec1 ∈ [Instr.encq, Instr.decode dec1, Instr.cksum dec1, Instr.verify dec1]
      ∧ exec (.decode dec1) stateA = .next t := ⟨_, by decide, rfl⟩

/-- Each clause at both of its ends: the first and last mode, fan and field, codes just outside, both ends of the setpoint. -/
theorem witness_AssembledLinesAreRequests :
    ((.name .off, 0) ∈ modeCodes ∧ (.unknownCode 7, 7) ∈ modeCodes ∧ (.name .auto, 0) ∈ fanCodes
      ∧ (.unknownCode 5, 5) ∈ fanCodes ∧ (.enccmd .unlock (.name .off) (.name .auto) 24, 0x03)
        ∈ commandLines (.name .off) (.name .auto) 24)
    ∧ (AsmMode.unknownCode 6 ∉ modeCodes.map Prod.fst ∧ AsmFan.unknownCode 4 ∉ fanCodes.map Prod.fst)
    ∧ assemble (.encset (.unknownCode 7) (.unknownCode 5) (-32768)) = some (commandRequest 0x01 7 5 0x8000)
    ∧ assemble (.enccmd .lock (.name .cool) (.name .high) 32767) = some (commandRequest 0x02 3 1 0x7FFF)
    ∧ assemble (.encunlock (.name .cool) (.name .high) (-32769)) = none
    ∧ assemble (.enclock (.name .cool) (.name .high) 32768) = none
    ∧ (.name .modeFlags, 5) ∈ fieldIds ∧ assemble (.offsetof (.number 15)) = some (bareRequest 0xF7)
    ∧ assemble (.offsetof (.number 16)) = none := by decide

end Sys2Proof.Tests
end

section
/-! The block as a function (10_state.md R21): every request that can be presented is answered, and the registers, the
parameters and the request alone decide with what. -/

namespace Sys2Proof.Machine

open Sys2Proof

/-! ### No presentable operation stops -/

/-- The decoder's checks make no read outside the buffer: they pass or raise. -/
theorem checkResponse_ok_or_raise (b : List Byte) : checkResponse b = .ok () ∨ ∃ k, checkResponse b = raise k := by
  by_cases hlen : b.length = rspLen
  · have hread (i : Nat) (hi : i < rspLen) : memRead b i = .ok (b.getD i 0) := memRead_of_lt (hlen ▸ hi)
    simp only [checkResponse, hread 0 (by decide), hread 31 (by decide), hread 30 (by decide), bind, Except.bind]
    split_ifs <;> simp [pure, Except.pure]
  · exact .inr ⟨.wrongLength, by simp [checkResponse, hlen, bind, Except.bind]⟩

/-- A frame that passes the decoder's checks has every byte a legal layout reads. -/
theorem telemetryOf_of_checked {rl : RespLayout} {b : List Byte} (hrl : respLayoutOk rl = true)
    (hb : checkResponse b = .ok ()) : telemetryOf rl b = .ok (recordOf rl (fun k => b.getD k 0)) := by
  obtain ⟨hlen, -⟩ := (checkResponse_eq_ok_iff b).mp hb
  refine telemetryOf_of_lt (List.forall_mem_cons.mpr ⟨?_, fun k hk => ?_⟩)
  · rw [hlen]; decide
  · rw [hlen]; exact respLayoutOk_lt hrl hk

theorem finish_buildCmd_next (s : State) (cfg : Cfg) (ct : CommandType) (mode fan : BitVec 3) (t : BitVec 16) :
    ∃ u, finish s (buildCmd cfg ct mode fan t) = .next u := by
  obtain ⟨mb, fb, tb, -, -, -, h⟩ | ⟨-, h⟩ | ⟨-, -, h⟩ | ⟨-, -, -, h⟩ := buildCmd_cases cfg ct mode fan t <;>
    exact ⟨_, by rw [h]; rfl⟩

theorem execDecode_next {s : State} {buf : List Byte} (hrl : respLayoutOk s.params.respLayout = true)
    (hbuf : buf.length ≤ s.params.maxInLen) : ∃ t, execDecode buf s = .next t := by
  obtain hc | ⟨k, hc⟩ := checkResponse_ok_or_raise buf
  · exact ⟨_, by rw [execDecode, presented_of_le hbuf, hc, telemetryOf_of_checked hrl hc]; rfl⟩
  · exact ⟨_, by rw [execDecode, presented_of_le hbuf, hc]; rfl⟩

theorem execCksum_next {s : State} {buf : List Byte} (hbuf : buf.length ≤ s.params.maxInLen) :
    ∃ t, execCksum buf s = .next t :=
  ⟨_, by rw [execCksum, presented_of_le hbuf]; rfl⟩

theorem execVerify_next {s : State} {buf : List Byte} (hbuf : buf.length ≤ s.params.maxInLen) :
    ∃ t, execVerify buf s = .next t := by
  by_cases hlen : buf.length < 2
  · exact ⟨_, by rw [execVerify, presented_of_le hbuf, if_pos hlen]; rfl⟩
  · exact ⟨_, by rw [execVerify, presented_of_le hbuf, if_neg hlen, memRead_of_lt (by omega)]; rfl⟩

theorem execOffsetof_next (field : BitVec 4) (s : State) : ∃ t, execOffsetof field s = .next t := by
  cases hf : fieldOfId field with
  | none => exact ⟨_, by rw [execOffsetof, hf]; rfl⟩
  | some f =>
    cases hl : layout (variantOf s.cfg.variant) f with
    | none => exact ⟨_, by simp only [execOffsetof, hf, hl]; rfl⟩
    | some k => exact ⟨_, by simp only [execOffsetof, hf, hl]; rfl⟩

/-- Under a legal layout, every operation that can be presented answers (20_memory.md R41, 92_eei_decisions.md D23). -/
theorem exec_next {i : Instr} {s : State} (hrl : respLayoutOk s.params.respLayout = true)
    (hi : i.wellFormed s.params.maxInLen = true) : ∃ t, exec i s = .next t := by
  cases i with
  | encq => exact ⟨_, rfl⟩
  | encset mode fan t => exact finish_buildCmd_next s s.cfg .set mode fan t
  | enclock mode fan t => exact finish_buildCmd_next s s.cfg .lock mode fan t
  | encunlock mode fan t => exact finish_buildCmd_next s s.cfg .unlock mode fan t
  | decode buf => exact execDecode_next hrl (of_decide_eq_true hi)
  | cksum buf => exact execCksum_next (of_decide_eq_true hi)
  | verify buf => exact execVerify_next (of_decide_eq_true hi)
  | offsetof field => exact execOffsetof_next field s

/-- A request whose buffer fits decodes to an operation that can be presented. -/
theorem wellFormed_of_decode {r : Request} {i : Instr} {n : Nat} (h : decode r = .ok i) (hbuf : r.inBuf.length ≤ n) :
    i.wellFormed n = true := by
  unfold decode at h
  dsimp only at h
  split at h
  · cases h
  split at h
  · cases h
  split at h <;> cases h <;> simp [Instr.wellFormed, hbuf]

theorem serveRequest_next {r : Request} {s : State} (hrl : respLayoutOk s.params.respLayout = true)
    (hbuf : r.inBuf.length ≤ s.params.maxInLen) : ∃ t, serveRequest r s = .next t := by
  cases hd : decode r with
  | error e => exact ⟨_, serveRequest_of_error s hd⟩
  | ok i => rw [serveRequest_of_ok s hd]; exact exec_next hrl (wellFormed_of_decode hd hbuf)

/-! ### The response depends on registers, parameters and request alone -/

/-- Every request ends through `finish` with a result that the registers and parameters alone decide. -/
theorem serveRequest_eq_finish (r : Request) (s : State) :
    ∃ x : Except Stop Payload, ∀ s' : State, s'.cfg = s.cfg → s'.params = s.params → serveRequest r s' = finish s' x := by
  cases hd : decode r with
  | error e => exact ⟨raise .illegalRequest, fun s' _ _ => serveRequest_of_error s' hd⟩
  | ok i =>
    obtain ⟨x, hx⟩ := exec_eq_finish i s
    exact ⟨x, fun s' hc hp => (serveRequest_of_ok s' hd).trans (hx s' hc hp)⟩

/-- A request answered in one state is answered alike in every state with the same registers and parameters. -/
theorem serveRequest_next_agree {r : Request} {s t : State} (h : serveRequest r s = .next t) :
    ∃ resp : Response, t.response = some resp ∧
      ∀ s' : State, s'.cfg = s.cfg → s'.params = s.params → serveRequest r s' = .next (s'.answer resp) := by
  obtain ⟨x, hx⟩ := serveRequest_eq_finish r s
  rw [hx s rfl rfl] at h
  obtain ⟨p, rfl, rfl⟩ | ⟨k, rfl, rfl⟩ := finish_eq_next h
  · exact ⟨.ok p, rfl, fun s' hc hp => by rw [hx s' hc hp, finish_ok]⟩
  · exact ⟨.err k, rfl, fun s' hc hp => by rw [hx s' hc hp, finish_raise]⟩

/-- The block with its registers and parameters set, and nothing on its ports. -/
def quietBlock (p : Params) (c : Cfg) : State := { cfg := c, params := p, inputs := [], response := none }

/-- The function of 10_state.md R21: the response a quiet block gives the request. Where it gives none, the value stands for
nothing: `serveRequest_eq_blockResponse` says when it gives one. -/
def blockResponse (p : Params) (c : Cfg) (r : Request) : Response :=
  (responseAfter (serveRequest r (quietBlock p c))).getD (.err .illegalRequest)

/-- Under a legal layout, a presentable request is answered with `blockResponse` and changes nothing else. -/
theorem serveRequest_eq_blockResponse {r : Request} {s : State} (hrl : respLayoutOk s.params.respLayout = true)
    (hbuf : r.inBuf.length ≤ s.params.maxInLen) :
    serveRequest r s = .next (s.answer (blockResponse s.params s.cfg r)) := by
  obtain ⟨t, ht⟩ : ∃ t, serveRequest r (quietBlock s.params s.cfg) = .next t := serveRequest_next hrl hbuf
  obtain ⟨resp, hresp, hagree⟩ := serveRequest_next_agree ht
  have hval : blockResponse s.params s.cfg r = resp := by simp [blockResponse, ht, responseAfter, hresp]
  rw [hval]
  exact hagree s rfl rfl

/-- Settles O12: the function is `blockResponse` at the given parameters. -/
theorem blockIsAFunctionOfRegistersAndRequest : Obligations.BlockIsAFunctionOfRegistersAndRequest := by
  intro p hrl
  refine ⟨blockResponse p, ?_⟩
  rintro s r rest rfl hin hbuf
  rw [step_of_cons hin]
  exact serveRequest_eq_blockResponse hrl hbuf

end Sys2Proof.Machine
end

section
/-! A run over presented requests (20_memory.md R49): each step serves the oldest request with `blockResponse`, so a request
behind others is answered as it is alone. -/

namespace Sys2Proof.Machine

open Sys2Proof

theorem runSteps_succ_of_next {s t : State} (h : step s = .next t) (n : Nat) : runSteps (n + 1) s = runSteps n t := by
  simp [runSteps, h]

/-- Under a legal layout, a step takes a presentable oldest request and changes nothing but the two ports. -/
theorem step_eq_blockResponse {s : State} {r : Request} {rest : List HostInput}
    (hrl : respLayoutOk s.params.respLayout = true) (hbuf : r.inBuf.length ≤ s.params.maxInLen)
    (hin : s.inputs = .request r :: rest) :
    step s = .next { s with inputs := rest, response := some (blockResponse s.params s.cfg r) } := by
  rw [step_of_cons hin]
  exact serveRequest_eq_blockResponse hrl hbuf

/-- `k + 1` steps over presentable requests leave the requests behind request `k`, and its `blockResponse` on the port. -/
theorem runSteps_eq_blockResponse {s : State} {reqs : List Request} {k : Nat} {r : Request}
    (hrl : respLayoutOk s.params.respLayout = true) (hbuf : ∀ q ∈ reqs, q.inBuf.length ≤ s.params.maxInLen)
    (hin : s.inputs = reqs.map HostInput.request) (hk : reqs[k]? = some r) :
    runSteps (k + 1) s
      = .next { s with
          inputs := (reqs.drop (k + 1)).map HostInput.request
          response := some (blockResponse s.params s.cfg r) } := by
  induction reqs generalizing s k with
  | nil => simp at hk
  | cons q rest ih =>
    obtain ⟨hq, hrest⟩ := List.forall_mem_cons.mp hbuf
    rw [runSteps_succ_of_next (step_eq_blockResponse hrl hq hin)]
    cases k with
    | zero =>
      obtain rfl : q = r := by simpa using hk
      rfl
    | succ k => exact ih hrl hrest rfl hk

/-- Settles O7: in the run and alone, request `k` is answered with its `blockResponse`. -/
theorem requestsServedInOrder : Obligations.RequestsServedInOrder := by
  intro s reqs hrl hbuf hin k r hk
  have hr : r.inBuf.length ≤ s.params.maxInLen := hbuf r (List.mem_of_getElem? hk)
  exact ⟨_, step_eq_blockResponse hrl hr rfl, runSteps_eq_blockResponse hrl hbuf hin hk⟩

end Sys2Proof.Machine
end

section
/-! Which request words are illegal (30_encoding.md R60, R63): the decoder's answer by `OP` and `FIELD` as numbers. -/

namespace Sys2Proof

open Sys2Proof.Claims

theorem reqOp_toNat (r : Request) : (reqOp r.req).toNat = opNumber r := by
  simp [reqOp, opNumber]

theorem reqField_toNat (r : Request) : (reqField r.req).toNat = fieldNumber r := by
  have hreq : r.req.toNat < 256 := r.req.isLt
  rw [reqField, BitVec.extractLsb'_toNat, Nat.shiftRight_eq_div_pow, fieldNumber]
  omega

theorem reqOp_eq_seven_iff (r : Request) : reqOp r.req = 7#4 ↔ opNumber r = 7 := by
  rw [← reqOp_toNat]; exact BitVec.toNat_inj.symm

theorem reqField_eq_zero_iff (r : Request) : reqField r.req = 0#4 ↔ fieldNumber r = 0 := by
  rw [← reqField_toNat]; exact BitVec.toNat_inj.symm

theorem decode_of_reservedOp {r : Request} (hop : 8 ≤ opNumber r) : decode r = .error .reservedOp := by
  rw [decode, if_pos (by rwa [reqOp_toNat])]

theorem decode_of_strayField {r : Request} (hop : opNumber r ≤ 6) (hfield : fieldNumber r ≠ 0) :
    decode r = .error .strayField := by
  have hlow : ¬ 8 ≤ (reqOp r.req).toNat := by rw [reqOp_toNat]; omega
  have hstray : reqOp r.req ≠ 7#4 ∧ reqField r.req ≠ 0#4 := by
    rw [Ne, Ne, reqOp_eq_seven_iff, reqField_eq_zero_iff]
    exact ⟨by omega, hfield⟩
  rw [decode, if_neg hlow, if_pos hstray]

/-- Every word that R63 does not call illegal has an operation. -/
theorem decode_of_legal {r : Request} (hop : opNumber r < 8) (hfield : opNumber r ≤ 6 → fieldNumber r = 0) :
    ∃ i, decode r = .ok i := by
  have hlow : ¬ 8 ≤ (reqOp r.req).toNat := by rw [reqOp_toNat]; omega
  have hplain : ¬ (reqOp r.req ≠ 7#4 ∧ reqField r.req ≠ 0#4) := by
    rw [Ne, Ne, reqOp_eq_seven_iff, reqField_eq_zero_iff]
    omega
  rw [decode, if_neg hlow, if_neg hplain, reqOp_toNat]
  generalize opNumber r = op at hop
  interval_cases op <;> exact ⟨_, rfl⟩

end Sys2Proof

namespace Sys2Proof.Machine

open Sys2Proof Sys2Proof.Claims

theorem step_of_illegal {s : State} {r : Request} {rest : List HostInput} {e : DecodeReject}
    (hin : s.inputs = .request r :: rest) (hd : decode r = .error e) :
    step s = .next { s with inputs := rest, response := some (.err .illegalRequest) } := by
  rw [step_of_cons hin]
  exact serveRequest_of_error _ hd

theorem step_of_decoded {s : State} {r : Request} {rest : List HostInput} {i : Instr}
    (hin : s.inputs = .request r :: rest) (hd : decode r = .ok i) : step s = exec i { s with inputs := rest } := by
  rw [step_of_cons hin]
  exact serveRequest_of_ok _ hd

/-- Settles O6: a step follows the decoder's answer, which turns on `OP` and `FIELD` alone. -/
theorem illegalWordsAnswerIllegalRequest : Obligations.IllegalWordsAnswerIllegalRequest := by
  intro s r rest hin
  split_ifs with hillegal
  · obtain hop | ⟨hop, hfield⟩ := hillegal
    · exact step_of_illegal hin (decode_of_reservedOp hop)
    · exact step_of_illegal hin (decode_of_strayField hop hfield)
  · obtain ⟨i, hi⟩ : ∃ i, decode r = .ok i := decode_of_legal (by omega) (by omega)
    exact ⟨i, hi, step_of_decoded hin hi⟩

end Sys2Proof.Machine
end

section
/-! The operations that read no register (30_encoding.md R91, 70_reset_and_hazards.md R234), and the query literal
(30_encoding.md R81). -/

namespace Sys2Proof.Machine

open Sys2Proof Sys2Proof.Claims

/-- A request that ends with a response ends with the same one under other registers, which stay as they are. -/
theorem finish_withCfg {s t : State} {x : Except Stop Payload} (c : Cfg) (h : finish s x = .next t) :
    finish { s with cfg := c } x = .next { t with cfg := c } := by
  obtain ⟨p, rfl, rfl⟩ | ⟨k, rfl, rfl⟩ := finish_eq_next h
  · rfl
  · rfl

/-- Settles O44: each of the four ends its request through `finish` with a result in which no register occurs. -/
theorem decodeIgnoresTheRegisters : Obligations.DecodeIgnoresTheRegisters := by
  intro s t c buf i hi h
  simp only [List.mem_cons, List.not_mem_nil, or_false] at hi
  obtain rfl | rfl | rfl | rfl := hi
  · rw [exec, execEncq] at h ⊢
    exact finish_withCfg c h
  · rw [exec, execDecode] at h ⊢
    exact finish_withCfg c h
  · rw [exec, execCksum] at h ⊢
    exact finish_withCfg c h
  · rw [exec, execVerify] at h ⊢
    exact finish_withCfg c h

/-- The writes of `ENCQ` fill the frame with the literal of 30_encoding.md R81. -/
theorem wholeFrame_queryWrites :
    (do let out ← writeAll [] queryWrites; wholeFrame out) = .ok (.frame queryFrame) := rfl

theorem exec_encq (s : State) : exec .encq s = .next (s.answer (.ok (.frame queryFrame))) := by
  rw [exec, execEncq, wholeFrame_queryWrites, finish_ok]

/-- Settles O31: the frame of `ENCQ` in every state, and the literal's checksum evaluated. -/
theorem encqAnswersTheQueryLiteral : Obligations.EncqAnswersTheQueryLiteral :=
  ⟨exec_encq, by decide⟩

end Sys2Proof.Machine
end

section
/-! The checksum codec (40_checksum.md): the answers of `CKSUM` and `VERIFY` by the sum of the bytes, and which changes of a
verified buffer `VERIFY` detects. -/

namespace Sys2Proof.Machine

open Sys2Proof Sys2Proof.Claims

/-! ### CKSUM -/

theorem exec_cksum {s : State} {buf : List Byte} (hbuf : buf.length ≤ s.params.maxInLen) :
    exec (.cksum buf) s = .next (s.answer (.ok (.byte (ck8 buf)))) := by
  rw [exec, execCksum, presented_of_le hbuf]; rfl

/-- The checksum as the complement of the sum (40_checksum.md R100). -/
theorem ck8_eq_not (bs : List Byte) : ck8 bs = ~~~(BitVec.ofNat 8 (byteSum bs)) := by
  apply BitVec.eq_of_toNat_eq
  rw [ck8_toNat, BitVec.toNat_not, BitVec.toNat_ofNat]

/-- Settles O23: the byte answered is `ck8` of the buffer, as a number and as a complement. -/
theorem cksumIsTheComplementOfTheSum : Obligations.CksumIsTheComplementOfTheSum := by
  intro s buf hbuf
  refine ⟨ck8 buf, exec_cksum hbuf, ck8_toNat buf, ck8_eq_not buf, ?_⟩
  rintro rfl
  rfl

/-! ### VERIFY -/

theorem exec_verify_of_lt_two {s : State} {buf : List Byte} (hbuf : buf.length ≤ s.params.maxInLen)
    (hlen : buf.length < 2) : exec (.verify buf) s = .next (s.answer (.err .wrongLength)) := by
  rw [exec, execVerify, presented_of_le hbuf, if_pos hlen]; rfl

/-- `VERIFY` tests the sum of all the bytes, the checksum among them (40_checksum.md R102, second form). -/
theorem exec_verify {s : State} {buf : List Byte} (hbuf : buf.length ≤ s.params.maxInLen) (hlen : 2 ≤ buf.length) :
    exec (.verify buf) s = .next (s.answer (.ok (.bool (decide (byteSum buf % 256 = 0xFF))))) := by
  obtain ⟨c, hc⟩ : ∃ c, buf[buf.length - 2]? = some c := ⟨_, List.getElem?_eq_getElem (by omega)⟩
  have htest : (frameCk buf == c) = decide (byteSum buf % 256 = 0xFF) := by
    rw [beq_eq_decide]
    exact decide_eq_decide.mpr (frameCk_eq_iff hlen hc)
  rw [exec, execVerify, presented_of_le hbuf, if_neg (Nat.not_lt.mpr hlen), memRead_of_some hc, ← htest]
  rfl

/-- What a 1 from `VERIFY` says of the buffer: it fits, it has a checksum position, and its bytes add to 0xFF. -/
theorem of_exec_verify_true {s u : State} {buf : List Byte} (h : exec (.verify buf) s = .next u)
    (hu : u.response = some (.ok (.bool true))) :
    buf.length ≤ s.params.maxInLen ∧ 2 ≤ buf.length ∧ byteSum buf % 256 = 0xFF := by
  obtain hbuf | hbuf := Nat.lt_or_ge s.params.maxInLen buf.length
  · rw [exec, execVerify, presented_of_lt hbuf] at h
    cases h
  obtain hlen | hlen := Nat.lt_or_ge buf.length 2
  · rw [exec_verify_of_lt_two hbuf hlen] at h
    cases h
    cases hu
  · rw [exec_verify hbuf hlen] at h
    cases h
    exact ⟨hbuf, hlen, by simpa using hu⟩

/-- Settles O27: changing one byte moves the sum by less than 256 and not by 0 (40_checksum.md R105). -/
theorem verifyDetectsEveryOneByteChange : Obligations.VerifyDetectsEveryOneByteChange := by
  intro s u buf k v h hu hk hne
  obtain ⟨hbuf, hlen, hsum⟩ := of_exec_verify_true h hu
  obtain ⟨a, ha⟩ : ∃ a, buf[k]? = some a := ⟨_, List.getElem?_eq_getElem hk⟩
  have hav : a.toNat ≠ v.toNat := fun heq => hne (by rw [ha, BitVec.eq_of_toNat_eq heq])
  have hmoved : byteSum (buf.set k v) % 256 ≠ 0xFF := by
    have hset := byteSum_set v ha
    have halt := a.isLt
    have hvlt := v.isLt
    omega
  rw [exec_verify (by rwa [List.length_set]) (by rwa [List.length_set]), decide_eq_false hmoved]
  rfl

/-! ### Compensating changes -/

/-- What replacing two bytes does to the sum. -/
theorem byteSum_set_set {buf : List Byte} {i j : Nat} {a b : Byte} (v w : Byte) (hij : i ≠ j) (hi : buf[i]? = some a)
    (hj : buf[j]? = some b) :
    byteSum ((buf.set i v).set j w) + (a.toNat + b.toNat) = byteSum buf + (v.toNat + w.toNat) := by
  have hfirst := byteSum_set v hi
  have hj' : (buf.set i v)[j]? = some b := (List.getElem?_set_ne hij).trans hj
  have hsecond := byteSum_set w hj'
  omega

/-- Two changes that add to 0 keep the sum of the two bytes modulo 256. -/
theorem toNat_add_mod_of_compensating {a b v w : Byte} (h : (v - a) + (w - b) = 0#8) :
    (v.toNat + w.toNat) % 256 = (a.toNat + b.toNat) % 256 := by
  bv_omega

/-- Two changes that add to 0 leave a verified buffer verified (40_checksum.md R106). -/
theorem exec_verify_compensated {s u : State} {buf : List Byte} {i j : Nat} {a b v w : Byte}
    (h : exec (.verify buf) s = .next u) (hu : u.response = some (.ok (.bool true))) (hij : i ≠ j)
    (hi : buf[i]? = some a) (hj : buf[j]? = some b) (hvw : (v - a) + (w - b) = 0#8) :
    exec (.verify ((buf.set i v).set j w)) s = .next (s.answer (.ok (.bool true))) := by
  obtain ⟨hbuf, hlen, hsum⟩ := of_exec_verify_true h hu
  have hkept : byteSum ((buf.set i v).set j w) % 256 = 0xFF := by
    have hset := byteSum_set_set v w hij hi hj
    have hmod := toNat_add_mod_of_compensating hvw
    omega
  rw [exec_verify (by rwa [List.length_set, List.length_set]) (by rwa [List.length_set, List.length_set]),
    decide_eq_true hkept]

/-- Settles O28: a swap is the pair of changes by `b - a` and `a - b`. -/
theorem verifyMissesCompensatingChanges : Obligations.VerifyMissesCompensatingChanges := by
  intro s u buf i j a b h hu hij hi hj
  have hswap : (b - a) + (a - b) = 0#8 := by bv_omega
  exact ⟨fun v w hvw => exec_verify_compensated h hu hij hi hj hvw, exec_verify_compensated h hu hij hi hj hswap⟩

end Sys2Proof.Machine
end

section
/-! Which error kinds each operation raises (60_exceptions.md R200), and of them `UnsupportedField` (41_layout.md R122). -/

namespace Sys2Proof.Machine

open Sys2Proof

/-! ### The kinds a computation raises -/

/-- Every error kind the computation raises is in the list. A fault or a refusal is no error kind. -/
def RaisesOnly {α : Type} (ks : List ErrKind) (x : Except Stop α) : Prop :=
  ∀ k, x = .error (.raise k) → k ∈ ks

theorem RaisesOnly.ok {α : Type} (ks : List ErrKind) (a : α) : RaisesOnly ks (.ok a : Except Stop α) := by
  intro k h
  cases h

theorem RaisesOnly.raise {α : Type} {ks : List ErrKind} {k : ErrKind} (hk : k ∈ ks) :
    RaisesOnly ks (raise k : Except Stop α) := by
  intro j h
  cases h
  exact hk

theorem RaisesOnly.bind {α β : Type} {ks : List ErrKind} {x : Except Stop α} {f : α → Except Stop β}
    (hx : RaisesOnly ks x) (hf : ∀ a, RaisesOnly ks (f a)) : RaisesOnly ks (x >>= f) := by
  intro k h
  cases x with
  | ok a => exact hf a k h
  | error e =>
    cases h
    exact hx k rfl

/-- A check at the head of a sequence: the kind it raises, or the rest. -/
theorem RaisesOnly.check {α : Type} {c : Prop} [Decidable c] {ks : List ErrKind} {k : ErrKind} {y : Except Stop α}
    (hk : k ∈ ks) (hy : RaisesOnly ks y) : RaisesOnly ks (if c then Machine.raise k else y) := by
  split
  · exact .raise hk
  · exact hy

/-- A response that carries an error kind carries one its computation raises. -/
theorem RaisesOnly.mem_of_finish {ks : List ErrKind} {x : Except Stop Payload} {s t : State} {k : ErrKind}
    (hx : RaisesOnly ks x) (h : finish s x = .next t) (ht : t.response = some (.err k)) : k ∈ ks := by
  obtain ⟨p, rfl, rfl⟩ | ⟨j, rfl, rfl⟩ := finish_eq_next h
  · cases ht
  · cases ht
    exact hx k rfl

/-! ### The parts of an operation -/

theorem presented_raisesOnly (ks : List ErrKind) (s : State) (buf : List Byte) : RaisesOnly ks (presented s buf) := by
  intro k h
  unfold presented at h
  split at h <;> cases h

theorem memRead_raisesOnly (ks : List ErrKind) (b : List Byte) (i : Nat) : RaisesOnly ks (memRead b i) := by
  intro k h
  unfold memRead at h
  split at h <;> cases h

theorem readHalf_raisesOnly (ks : List ErrKind) (b : List Byte) (i : Nat) : RaisesOnly ks (readHalf b i) :=
  (memRead_raisesOnly ks b i).bind fun _ => (memRead_raisesOnly ks b (i + 1)).bind fun _ => .ok ks _

/-- Reading the record raises no kind under any layout: an index outside the buffer is a fault. -/
theorem telemetryOf_raisesOnly (ks : List ErrKind) (rl : RespLayout) (b : List Byte) :
    RaisesOnly ks (telemetryOf rl b) := by
  unfold telemetryOf
  iterate 14 refine (memRead_raisesOnly ks b _).bind fun _ => ?_
  iterate 2 refine (readHalf_raisesOnly ks b _).bind fun _ => ?_
  exact (memRead_raisesOnly ks b _).bind fun _ => .ok ks _

theorem checkResponse_raisesOnly (b : List Byte) :
    RaisesOnly [.wrongLength, .badStartByte, .badEndByte, .checksumMismatch] (checkResponse b) := by
  unfold checkResponse
  refine .check (by simp) ?_
  refine (memRead_raisesOnly _ b _).bind fun _ => .check (by simp) ?_
  refine (memRead_raisesOnly _ b _).bind fun _ => .check (by simp) ?_
  exact (memRead_raisesOnly _ b _).bind fun _ => .check (by simp) (.ok _ _)

/-- `BuildCmd` raises the kinds of its three operand checks: its layout lookups always find an index (41_layout.md R122). -/
theorem buildCmd_raisesOnly (cfg : Cfg) (ct : CommandType) (mode fan : BitVec 3) (t : BitVec 16) :
    RaisesOnly [.unsupportedMode, .unsupportedFan, .temperatureOutOfRange] (buildCmd cfg ct mode fan t) := by
  obtain ⟨_, _, _, -, -, -, h⟩ | ⟨-, h⟩ | ⟨-, -, h⟩ | ⟨-, -, -, h⟩ := buildCmd_cases cfg ct mode fan t
  · rw [h]; exact .ok _ _
  · rw [h]; exact .raise (by simp)
  · rw [h]; exact .raise (by simp)
  · rw [h]; exact .raise (by simp)

/-! ### The operations -/

/-- The error kinds of an operation, the column "raised by" of 60_exceptions.md R200 read by operation. -/
def raisedBy : Instr → List ErrKind
  | .encq => []
  | .encset _ _ _ => [.unsupportedMode, .unsupportedFan, .temperatureOutOfRange]
  | .enclock _ _ _ => [.unsupportedMode, .unsupportedFan, .temperatureOutOfRange]
  | .encunlock _ _ _ => [.unsupportedMode, .unsupportedFan, .temperatureOutOfRange]
  | .decode _ => [.wrongLength, .badStartByte, .badEndByte, .checksumMismatch]
  | .cksum _ => []
  | .verify _ => [.wrongLength]
  | .offsetof _ => [.unsupportedField]

/-- Every operation ends its request through `finish` with a result that raises only the operation's kinds. -/
theorem exec_eq_finish_raisesOnly (i : Instr) (s : State) :
    ∃ x : Except Stop Payload, exec i s = finish s x ∧ RaisesOnly (raisedBy i) x := by
  cases i with
  | encq => exact ⟨.ok _, exec_encq s, .ok _ _⟩
  | encset mode fan t => exact ⟨_, rfl, buildCmd_raisesOnly s.cfg .set mode fan t⟩
  | enclock mode fan t => exact ⟨_, rfl, buildCmd_raisesOnly s.cfg .lock mode fan t⟩
  | encunlock mode fan t => exact ⟨_, rfl, buildCmd_raisesOnly s.cfg .unlock mode fan t⟩
  | decode buf =>
    exact ⟨_, rfl, (presented_raisesOnly _ s buf).bind fun _ => (checkResponse_raisesOnly buf).bind fun _ =>
      (telemetryOf_raisesOnly _ _ buf).bind fun _ => .ok _ _⟩
  | cksum buf => exact ⟨_, rfl, (presented_raisesOnly _ s buf).bind fun _ => .ok _ _⟩
  | verify buf =>
    exact ⟨_, rfl, (presented_raisesOnly _ s buf).bind fun _ => .check (by simp [raisedBy])
      ((memRead_raisesOnly _ buf _).bind fun _ => .ok _ _)⟩
  | offsetof field =>
    refine ⟨_, rfl, ?_⟩
    split
    · exact .raise (by simp [raisedBy])
    · split
      · exact .raise (by simp [raisedBy])
      · exact .ok _ _

/-- An operation that answers an error kind answers one of its own (60_exceptions.md R200). -/
theorem mem_raisedBy_of_exec {i : Instr} {s t : State} {k : ErrKind} (h : exec i s = .next t)
    (ht : t.response = some (.err k)) : k ∈ raisedBy i := by
  obtain ⟨x, hx, hraises⟩ := exec_eq_finish_raisesOnly i s
  exact hraises.mem_of_finish (hx ▸ h) ht

/-- Settles O22: of the operations' kinds, only those of `OFFSETOF` hold `UnsupportedField`. -/
theorem onlyOffsetofReportsUnsupportedField : Obligations.OnlyOffsetofReportsUnsupportedField := by
  intro i s t h ht
  have hk : .unsupportedField ∈ raisedBy i := mem_raisedBy_of_exec h ht
  cases i with
  | offsetof field => exact ⟨field, rfl⟩
  | encq | encset | enclock | encunlock | decode | cksum | verify => simp [raisedBy] at hk

end Sys2Proof.Machine
end

section
/-! The operands of a command by the spec's tables (30_encoding.md R65 to R67), and the frame `BuildCmd` builds written out
(30_encoding.md R80). -/

namespace Sys2Proof.Machine

open Sys2Proof Sys2Proof.Claims

/-! ### The operand checks -/

theorem map_modeByte_modeOfCode (c : BitVec 3) : (modeOfCode c).map modeByte = modeBytes[c.toNat]? := by
  decide +revert

theorem map_fanByte_fanOfCode (c : BitVec 3) : (fanOfCode c).map fanByte = fanBytes[c.toNat]? := by
  decide +revert

theorem modeOfCode_eq_none_iff (c : BitVec 3) : modeOfCode c = none ↔ c = 7#3 := by
  decide +revert

theorem fanOfCode_eq_none_iff (c : BitVec 3) : fanOfCode c = none ↔ 5 ≤ c.toNat := by
  decide +revert

theorem modeOperand_eq_ok_iff {c : BitVec 3} {mb : Byte} : modeOperand c = .ok mb ↔ modeBytes[c.toNat]? = some mb := by
  rw [← map_modeByte_modeOfCode, modeOperand]
  cases modeOfCode c with
  | none => simp
  | some m => simp

theorem fanOperand_eq_ok_iff {c : BitVec 3} {fb : Byte} : fanOperand c = .ok fb ↔ fanBytes[c.toNat]? = some fb := by
  rw [← map_fanByte_fanOfCode, fanOperand]
  cases fanOfCode c with
  | none => simp
  | some f => simp

theorem not_inRange_iff {cfg : Cfg} {t : BitVec 16} :
    ¬ inRange cfg t ↔ t.toInt < (cfg.tempMin.toNat : Int) ∨ (cfg.tempMax.toNat : Int) < t.toInt := by
  omega

/-- The setpoint's check passes exactly within the bounds, and writes the low byte (30_encoding.md R67). -/
theorem setpointOperand_eq_ok_iff {cfg : Cfg} {t : BitVec 16} {tb : Byte} :
    setpointOperand cfg t = .ok tb ↔ inRange cfg t ∧ t.extractLsb' 0 8 = tb := by
  have hlow : t.setWidth 8 = t.extractLsb' 0 8 := BitVec.eq_of_toNat_eq (by simp)
  simp only [setpointOperand, ← not_inRange_iff, hlow]
  by_cases hin : inRange cfg t
  · rw [if_neg (not_not.mpr hin), Except.ok.injEq, and_iff_right hin]
  · simp [hin]

/-- A setpoint within the bounds is its own low byte. -/
theorem toNat_lowByte_of_inRange {cfg : Cfg} {t : BitVec 16} (h : inRange cfg t) :
    ((t.extractLsb' 0 8).toNat : Int) = t.toInt := by
  obtain ⟨hlo, hhi⟩ := h
  have hmax := cfg.tempMax.isLt
  have hlow : (t.extractLsb' 0 8).toNat = t.toNat % 256 := by simp
  rw [BitVec.toInt_eq_toNat_cond] at hlo hhi ⊢
  have ht := t.isLt
  split at hlo <;> omega

/-- Setpoints within bounds, not always the same ones, are told apart by their low bytes. -/
theorem eq_of_lowByte_eq {cfg cfg' : Cfg} {t t' : BitVec 16} (h : inRange cfg t) (h' : inRange cfg' t')
    (heq : t.extractLsb' 0 8 = t'.extractLsb' 0 8) : t = t' := by
  apply BitVec.eq_of_toInt_eq
  rw [← toNat_lowByte_of_inRange h, ← toNat_lowByte_of_inRange h', heq]

/-- In a table without repetitions an entry names its operand code. -/
theorem code_eq_of_table {table : List Byte} (hnodup : table.Nodup) {c c' : BitVec 3} {b : Byte}
    (h : table[c.toNat]? = some b) (h' : table[c'.toNat]? = some b) : c = c' := by
  obtain ⟨hlt, -⟩ := List.getElem?_eq_some_iff.mp h
  exact BitVec.eq_of_toNat_eq ((List.getElem?_inj hlt hnodup).mp (h.trans h'.symm))

/-! ### The command frame and its checksum -/

/-- The checksum byte of a command frame. -/
def commandChecksum (v : BitVec 1) (ct mb fb tb : Byte) : Byte := ck8 (commandCovered (variantOf v) ct mb fb tb)

theorem builtFrame_eq_commandFrame (v : BitVec 1) (ct mb fb tb : Byte) :
    builtFrame (variantOf v) ct mb fb tb = commandFrame v ct mb fb tb (commandChecksum v ct mb fb tb) := by
  obtain rfl | rfl := BitVec.eq_zero_or_eq_one v
  · rfl
  · rfl

/-- The checksum covers every byte of the frame but itself (40_checksum.md R101). -/
theorem checksumOf_commandFrame (v : BitVec 1) (ct mb fb tb ck : Byte) :
    checksumOf (commandFrame v ct mb fb tb ck) = commandChecksum v ct mb fb tb := by
  obtain rfl | rfl := BitVec.eq_zero_or_eq_one v
  · rfl
  · rfl

/-- The mode byte's place does not change the sum, so not the checksum. -/
theorem commandChecksum_variant (v v' : BitVec 1) (ct mb fb tb : Byte) :
    commandChecksum v ct mb fb tb = commandChecksum v' ct mb fb tb := by
  have hsum (w : Variant) : byteSum (commandCovered w ct mb fb tb) = byteSum (commandCovered .a ct mb fb tb) := by
    cases w with
    | a => rfl
    | b => simp only [commandCovered, byteSum_append, byteSum_cons, byteSum_nil]; omega
  rw [commandChecksum, commandChecksum, ck8, ck8, hsum, hsum (variantOf v')]

/-- Variant B's frame is Variant A's with indices 6 and 11 rewritten (42_encoder.md R136). -/
theorem commandFrame_one_eq_set (ct mb fb tb ck : Byte) :
    commandFrame 1#1 ct mb fb tb ck = ((commandFrame 0#1 ct mb fb tb ck).set 6 mb).set 11 0x00 := rfl

/-- Under one variant the frame holds each of the four bytes given. -/
theorem commandFrame_inj {v : BitVec 1} {ct mb fb tb ck ct' mb' fb' tb' ck' : Byte}
    (h : commandFrame v ct mb fb tb ck = commandFrame v ct' mb' fb' tb' ck') :
    ct = ct' ∧ mb = mb' ∧ fb = fb' ∧ tb = tb' := by
  have hct : some ct = some ct' := congrArg (·[1]?) h
  have hfb : some fb = some fb' := congrArg (·[7]?) h
  have htb : some tb = some tb' := congrArg (·[8]?) h
  have hmb : some mb = some mb' := by
    obtain rfl | rfl := BitVec.eq_zero_or_eq_one v
    · exact congrArg (·[11]?) h
    · exact congrArg (·[6]?) h
  exact ⟨Option.some.inj hct, Option.some.inj hmb, Option.some.inj hfb, Option.some.inj htb⟩

/-- The control byte at index 13 tells a command frame from the query frame. -/
theorem commandFrame_ne_queryFrame (v : BitVec 1) (ct mb fb tb ck : Byte) :
    commandFrame v ct mb fb tb ck ≠ queryFrame := by
  intro h
  have hcontrol : some 0x3C#8 = some 0x3F#8 := congrArg (·[13]?) h
  exact absurd hcontrol (by decide)

/-! ### The frame of 42_encoder.md R141 -/

theorem frameValid_iff (f : List Byte) :
    frameValid f = true
      ↔ f.length = 16 ∧ f[0]? = some 0xAA#8 ∧ f[15]? = some 0x55#8 ∧ f[14]? = some (checksumOf f) := by
  simp [frameValid, and_assoc, show checksumOf f = frameCk f from rfl]

theorem frameValid_queryFrame : frameValid queryFrame = true := by decide

theorem frameValid_commandFrame (v : BitVec 1) (ct mb fb tb : Byte) :
    frameValid (commandFrame v ct mb fb tb (commandChecksum v ct mb fb tb)) = true := by
  rw [frameValid_iff, checksumOf_commandFrame]
  exact ⟨rfl, rfl, rfl, rfl⟩

/-- A frame with its checksum is one that `VERIFY` accepts. -/
theorem exec_verify_of_frameValid {s : State} {f : List Byte} (hf : frameValid f = true) (hs : 16 ≤ s.params.maxInLen) :
    exec (.verify f) s = .next (s.answer (.ok (.bool true))) := by
  obtain ⟨hlen, -, -, hck⟩ := (frameValid_iff f).mp hf
  have hsum : byteSum f % 256 = 0xFF := (frameCk_eq_iff (by omega) (by rw [hlen]; exact hck)).mp rfl
  rw [exec_verify (by omega) (by omega), decide_eq_true hsum]

end Sys2Proof.Machine
end

section
/-! The command operations (42_encoder.md): what each can answer, said once, and from it the statements on their errors, their
setpoints and their frames. -/

namespace Sys2Proof.Machine

open Sys2Proof Sys2Proof.Claims

/-! ### What a command can answer -/

/-- Each of the three commands ends its request with `BuildCmd` of its command type. -/
theorem exec_command {mode fan : BitVec 3} {t : BitVec 16} {c : Instr × Byte} (hc : c ∈ commands mode fan t) :
    ∃ ct, c.2 = commandTypeByte ct ∧ ∀ s, exec c.1 s = finish s (buildCmd s.cfg ct mode fan t) := by
  simp only [commands, List.mem_cons, List.not_mem_nil, or_false] at hc
  obtain rfl | rfl | rfl := hc
  · exact ⟨.set, rfl, fun _ => rfl⟩
  · exact ⟨.lock, rfl, fun _ => rfl⟩
  · exact ⟨.unlock, rfl, fun _ => rfl⟩

/-- On given operands the command type byte names the command (30_encoding.md R68). -/
theorem eq_of_commandType_eq {mode fan : BitVec 3} {t : BitVec 16} {c c' : Instr × Byte} (hc : c ∈ commands mode fan t)
    (hc' : c' ∈ commands mode fan t) (h : c.2 = c'.2) : c = c' := by
  have hnodup : ((commands mode fan t).map Prod.snd).Nodup := by simp [commands]
  exact List.inj_on_of_nodup_map hnodup hc hc' h

/-- A command whose three checks pass answers its frame. -/
theorem exec_command_of_table {mode fan : BitVec 3} {t : BitVec 16} {c : Instr × Byte} {s : State} {mb fb : Byte}
    (hc : c ∈ commands mode fan t) (hm : modeBytes[mode.toNat]? = some mb) (hf : fanBytes[fan.toNat]? = some fb)
    (ht : inRange s.cfg t) :
    exec c.1 s = .next (s.answer (.ok (.frame (commandFrame s.cfg.variant c.2 mb fb (t.extractLsb' 0 8)
      (commandChecksum s.cfg.variant c.2 mb fb (t.extractLsb' 0 8)))))) := by
  obtain ⟨ct, hct, hexec⟩ := exec_command hc
  rw [hexec, hct, ← builtFrame_eq_commandFrame, buildCmd_of_ok (modeOperand_eq_ok_iff.mpr hm)
    (fanOperand_eq_ok_iff.mpr hf) (setpointOperand_eq_ok_iff.mpr ⟨ht, rfl⟩), finish_ok]

/-- What a command can answer: its frame, or the kind of the first check that fails (42_encoder.md R140). -/
theorem exec_command_cases {mode fan : BitVec 3} {t : BitVec 16} {c : Instr × Byte} (hc : c ∈ commands mode fan t)
    (s : State) :
    (∃ mb fb, modeBytes[mode.toNat]? = some mb ∧ fanBytes[fan.toNat]? = some fb ∧ inRange s.cfg t
      ∧ exec c.1 s = .next (s.answer (.ok (.frame (commandFrame s.cfg.variant c.2 mb fb (t.extractLsb' 0 8)
          (commandChecksum s.cfg.variant c.2 mb fb (t.extractLsb' 0 8)))))))
    ∨ (mode = 7#3 ∧ exec c.1 s = .next (s.answer (.err .unsupportedMode)))
    ∨ (mode ≠ 7#3 ∧ 5 ≤ fan.toNat ∧ exec c.1 s = .next (s.answer (.err .unsupportedFan)))
    ∨ (mode ≠ 7#3 ∧ fan.toNat < 5 ∧ ¬ inRange s.cfg t
        ∧ exec c.1 s = .next (s.answer (.err .temperatureOutOfRange))) := by
  obtain ⟨ct, -, hexec⟩ := exec_command hc
  obtain ⟨mb, fb, tb, hm, hf, ht, -⟩ | ⟨hm, h⟩ | ⟨hm, hf, h⟩ | ⟨hm, hf, ht, h⟩ := buildCmd_cases s.cfg ct mode fan t
  · rw [modeOperand_eq_ok_iff] at hm
    rw [fanOperand_eq_ok_iff] at hf
    obtain ⟨ht, -⟩ := setpointOperand_eq_ok_iff.mp ht
    exact .inl ⟨mb, fb, hm, hf, ht, exec_command_of_table hc hm hf ht⟩
  · rw [modeOfCode_eq_none_iff] at hm
    exact .inr (.inl ⟨hm, by rw [hexec, h]; rfl⟩)
  · rw [ne_eq, modeOfCode_eq_none_iff] at hm
    rw [fanOfCode_eq_none_iff] at hf
    exact .inr (.inr (.inl ⟨hm, hf, by rw [hexec, h]; rfl⟩))
  · rw [ne_eq, modeOfCode_eq_none_iff] at hm
    rw [ne_eq, fanOfCode_eq_none_iff, Nat.not_le] at hf
    exact .inr (.inr (.inr ⟨hm, hf, not_inRange_iff.mpr ht, by rw [hexec, h]; rfl⟩))

/-- A command that answers a frame has operands that pass the three checks, and the frame is theirs. -/
theorem frame_of_exec_command {mode fan : BitVec 3} {t : BitVec 16} {c : Instr × Byte} {s u : State} {f : List Byte}
    (hc : c ∈ commands mode fan t) (h : exec c.1 s = .next u) (hu : u.response = some (.ok (.frame f))) :
    ∃ mb fb, modeBytes[mode.toNat]? = some mb ∧ fanBytes[fan.toNat]? = some fb ∧ inRange s.cfg t
      ∧ f = commandFrame s.cfg.variant c.2 mb fb (t.extractLsb' 0 8)
          (commandChecksum s.cfg.variant c.2 mb fb (t.extractLsb' 0 8)) := by
  have no_error (k : ErrKind) : exec c.1 s ≠ .next (s.answer (.err k)) := by
    intro hexec
    rw [hexec] at h
    cases h
    cases hu
  obtain ⟨mb, fb, hm, hf, ht, hexec⟩ | ⟨-, hexec⟩ | ⟨-, -, hexec⟩ | ⟨-, -, -, hexec⟩ := exec_command_cases hc s
  · rw [hexec] at h
    cases h
    cases hu
    exact ⟨mb, fb, hm, hf, ht, rfl⟩
  · exact absurd hexec (no_error _)
  · exact absurd hexec (no_error _)
  · exact absurd hexec (no_error _)

/-! ### The statements on one request -/

/-- Settles O33: of the four things a command can answer, each clause leaves one. -/
theorem commandErrorsComeInOrder : Obligations.CommandErrorsComeInOrder := by
  intro s mode fan t c hc
  obtain ⟨mb, fb, hm, hf, ht, -⟩ | ⟨hm, h⟩ | ⟨hm, hf, h⟩ | ⟨hm, hf, ht, h⟩ := exec_command_cases hc s
  · obtain ⟨hmlt, -⟩ := List.getElem?_eq_some_iff.mp hm
    obtain ⟨hflt, -⟩ := List.getElem?_eq_some_iff.mp hf
    refine ⟨fun hm7 => ?_, fun _ hf5 => ?_, fun _ _ hout => absurd ht hout⟩
    · rw [hm7] at hmlt
      exact absurd hmlt (by decide)
    · exact absurd hflt (Nat.not_lt.mpr hf5)
  · exact ⟨fun _ => h, fun hm' => absurd hm hm', fun hm' => absurd hm hm'⟩
  · exact ⟨fun hm' => absurd hm' hm, fun _ _ => h, fun _ hf' => absurd hf' (Nat.not_lt.mpr hf)⟩
  · exact ⟨fun hm' => absurd hm' hm, fun _ hf' => absurd hf (Nat.not_lt.mpr hf'), fun _ _ _ => h⟩

/-- Settles O34: both bounds lie in 0 to 255, so a setpoint outside that range is outside them. -/
theorem setpointIsCheckedAgainstBothBounds : Obligations.SetpointIsCheckedAgainstBothBounds := by
  intro s mode fan t hm hf c hc
  obtain ⟨-, -, hout⟩ := commandErrorsComeInOrder s mode fan t c hc
  refine ⟨fun h => hout hm hf (not_inRange_iff.mpr h), fun hlo hhi => ?_, fun h => hout hm hf fun ⟨hlo, hhi⟩ => ?_⟩
  · obtain ⟨mb, fb, -, -, -, h⟩ | ⟨hm', -⟩ | ⟨-, hf', -⟩ | ⟨-, -, ht, -⟩ := exec_command_cases hc s
    · exact ⟨_, h, rfl⟩
    · exact absurd hm' hm
    · exact absurd hf (Nat.not_lt.mpr hf')
    · exact absurd ⟨hlo, hhi⟩ ht
  · have hmax := s.cfg.tempMax.isLt
    omega

/-- Settles O32: the checksum byte is `commandChecksum`, which index 14 does not enter. -/
theorem commandsAnswerTheirFrames : Obligations.CommandsAnswerTheirFrames := by
  intro s mode fan t mb fb hm hf ht
  refine ⟨t.extractLsb' 0 8, rfl, toNat_lowByte_of_inRange ht, fun c hc => ?_⟩
  exact ⟨_, exec_command_of_table hc hm hf ht, (checksumOf_commandFrame ..).symm⟩

/-! ### The statements on two requests -/

/-- Settles O37: the frame holds the command type and the operands' bytes, and each byte names its operand. -/
theorem differentCommandsGiveDifferentFrames : Obligations.DifferentCommandsGiveDifferentFrames := by
  intro s s' u u' mode fan mode' fan' t t' f f' hv c hc c' hc' h hu h' hu'
  obtain ⟨mb, fb, hm, hf, ht, rfl⟩ := frame_of_exec_command hc h hu
  obtain ⟨mb', fb', hm', hf', ht', rfl⟩ := frame_of_exec_command hc' h' hu'
  refine ⟨fun hne heq => hne ?_, commandFrame_ne_queryFrame _ _ _ _ _ _⟩
  rw [hv] at heq
  obtain ⟨hct, rfl, rfl, htb⟩ := commandFrame_inj heq
  obtain rfl : mode = mode' := code_eq_of_table (by decide) hm hm'
  obtain rfl : fan = fan' := code_eq_of_table (by decide) hf hf'
  obtain rfl : t = t' := eq_of_lowByte_eq ht ht' htb
  exact congrArg Prod.fst (eq_of_commandType_eq hc hc' hct)

/-- Settles O38: the two frames have one checksum, and differ by the writes at indices 6 and 11, which under mode `Off` write
the zeros that stand there. -/
theorem variantsMoveOnlyTheModeByte : Obligations.VariantsMoveOnlyTheModeByte := by
  intro s u u' mode fan t f f' c hc h hu h' hu'
  obtain ⟨mb, fb, hm, hf, -, rfl⟩ := frame_of_exec_command hc h hu
  obtain ⟨mb', fb', hm', hf', -, rfl⟩ := frame_of_exec_command hc h' hu'
  obtain rfl : mb = mb' := Option.some.inj (hm.symm.trans hm')
  obtain rfl : fb = fb' := Option.some.inj (hf.symm.trans hf')
  dsimp only
  rw [commandChecksum_variant 1#1 0#1, commandFrame_one_eq_set]
  refine ⟨fun k h6 h11 => ?_, ?_⟩
  · rw [List.getElem?_set_ne h11.symm, List.getElem?_set_ne h6.symm]
  · rintro rfl
    obtain rfl : 0x00#8 = mb := Option.some.inj hm
    rfl

end Sys2Proof.Machine
end

section
/-! Every frame answered is well formed (42_encoder.md R141). -/

namespace Sys2Proof.Machine

open Sys2Proof Sys2Proof.Claims

theorem eq_ok_of_finish {s u : State} {x : Except Stop Payload} {p : Payload} (h : finish s x = .next u)
    (hu : u.response = some (.ok p)) : x = .ok p := by
  obtain ⟨q, rfl, rfl⟩ | ⟨k, rfl, rfl⟩ := finish_eq_next h
  · cases hu
    rfl
  · cases hu

/-- A frame is answered by `ENCQ` or by a command (10_state.md R29). -/
theorem encq_or_command_of_frame {i : Instr} {s u : State} {f : List Byte} (h : exec i s = .next u)
    (hu : u.response = some (.ok (.frame f))) :
    i = .encq ∨ ∃ mode fan t, ∃ c ∈ commands mode fan t, c.1 = i := by
  cases i with
  | encq => exact .inl rfl
  | encset mode fan t | enclock mode fan t | encunlock mode fan t =>
    exact .inr ⟨mode, fan, t, by simp [commands]⟩
  | decode buf =>
    have hx := eq_ok_of_finish h hu
    simp only [bind_eq_ok] at hx
    obtain ⟨_, -, _, -, _, -, hx⟩ := hx
    cases hx
  | cksum buf =>
    have hx := eq_ok_of_finish h hu
    simp only [bind_eq_ok] at hx
    obtain ⟨_, -, hx⟩ := hx
    cases hx
  | verify buf =>
    have hx := eq_ok_of_finish h hu
    simp only [bind_eq_ok] at hx
    obtain ⟨_, -, hx⟩ := hx
    split at hx
    · cases hx
    · obtain ⟨_, -, hx⟩ := bind_eq_ok.mp hx
      cases hx
  | offsetof field =>
    have hx := eq_ok_of_finish h hu
    split at hx
    · cases hx
    · split at hx <;> cases hx

theorem frameValid_of_exec {i : Instr} {s u : State} {f : List Byte} (h : exec i s = .next u)
    (hu : u.response = some (.ok (.frame f))) : frameValid f = true := by
  obtain rfl | ⟨mode, fan, t, c, hc, rfl⟩ := encq_or_command_of_frame h hu
  · rw [exec_encq] at h
    cases h
    cases hu
    exact frameValid_queryFrame
  · obtain ⟨mb, fb, -, -, -, rfl⟩ := frame_of_exec_command hc h hu
    exact frameValid_commandFrame ..

/-- Settles O36: the frame is a valid one, and `VERIFY` accepts those. -/
theorem answeredFramesVerify : Obligations.AnsweredFramesVerify := by
  intro i s t f h ht
  have hf : frameValid f = true := frameValid_of_exec h ht
  obtain ⟨hlen, hstart, hend, hck⟩ := (frameValid_iff f).mp hf
  exact ⟨hlen, hstart, hend, hck, fun s' hs' => exec_verify_of_frameValid hf hs'⟩

end Sys2Proof.Machine
end

section
/-! The frame decoder (43_decoder.md): which of the four checks `DECODE` reports, the record it answers when all pass, and the
bytes each field of the record depends on. -/

namespace Sys2Proof.Machine

open Sys2Proof Sys2Proof.Claims

/-! ### The four checks -/

/-- The four checks as one decision, the checksum by the sum of all the bytes (43_decoder.md R171 to R175). -/
theorem checkResponse_eq (b : List Byte) :
    checkResponse b =
      if b.length ≠ 32 then raise .wrongLength
      else if b[0]? ≠ some 0xAA#8 then raise .badStartByte
      else if b[31]? ≠ some 0x55#8 then raise .badEndByte
      else if byteSum b % 256 ≠ 0xFF then raise .checksumMismatch
      else .ok () := by
  by_cases hlen : b.length = 32
  · have held {i : Nat} (hi : i < 32) : ∃ v, b[i]? = some v := ⟨_, List.getElem?_eq_getElem (hlen ▸ hi)⟩
    obtain ⟨start, h0⟩ := held (i := 0) (by decide)
    obtain ⟨last, h31⟩ := held (i := 31) (by decide)
    obtain ⟨stored, h30⟩ := held (i := 30) (by decide)
    have hck : stored = frameCk b ↔ byteSum b % 256 = 0xFF :=
      eq_comm.trans (frameCk_eq_iff (by omega) (by rw [hlen]; exact h30))
    simp only [checkResponse, rspLen, memRead_of_some h0, memRead_of_some h31, memRead_of_some h30, h0, h31, hlen, hck,
      ne_eq, Option.some.injEq, bind, Except.bind]
    split_ifs <;> rfl
  · rw [if_pos hlen, checkResponse, if_pos hlen]
    rfl

theorem checkResponse_eq_ok_iff_accepted (b : List Byte) : checkResponse b = .ok () ↔ accepted b :=
  checkResponse_eq_ok_iff b

/-- The checks pass only on buffers whose bytes add to 0xFF modulo 256 (43_decoder.md R174). -/
theorem byteSum_of_accepted {b : List Byte} (hb : accepted b) : byteSum b % 256 = 0xFF := by
  obtain ⟨hlen, -, -, hck⟩ := hb
  exact (frameCk_eq_iff (by omega) (by rw [hlen]; exact hck)).mp rfl

/-- Changing one byte moves the sum off 0xFF modulo 256. -/
theorem byteSum_set_mod_ne {b : List Byte} {k : Nat} {v : Byte} (hsum : byteSum b % 256 = 0xFF) (hk : k < b.length)
    (hne : b[k]? ≠ some v) : byteSum (b.set k v) % 256 ≠ 0xFF := by
  obtain ⟨a, ha⟩ : ∃ a, b[k]? = some a := ⟨_, List.getElem?_eq_getElem hk⟩
  have hav : a.toNat ≠ v.toNat := fun heq => hne (by rw [ha, BitVec.eq_of_toNat_eq heq])
  have hset := byteSum_set v ha
  have halt := a.isLt
  have hvlt := v.isLt
  omega

/-! ### What DECODE answers -/

theorem exec_decode_of_raise {s : State} {b : List Byte} {k : ErrKind} (hbuf : b.length ≤ s.params.maxInLen)
    (hb : checkResponse b = raise k) : exec (.decode b) s = .next (s.answer (.err k)) := by
  rw [exec, execDecode, presented_of_le hbuf, hb]; rfl

theorem exec_decode_of_accepted {s : State} {b : List Byte} (hrl : respLayoutOk s.params.respLayout = true)
    (hbuf : b.length ≤ s.params.maxInLen) (hb : accepted b) :
    exec (.decode b) s = .next (s.answer (.ok (.telem (recordOf s.params.respLayout fun k => b.getD k 0)))) := by
  have hchecked := (checkResponse_eq_ok_iff_accepted b).mpr hb
  rw [exec, execDecode, presented_of_le hbuf, hchecked, telemetryOf_of_checked hrl hchecked]; rfl

/-- What a record from `DECODE` says, under any layout: the buffer fits and passes the checks, and the record is its own. -/
theorem of_exec_decode_telem {s u : State} {b : List Byte} {T : Telemetry} (h : exec (.decode b) s = .next u)
    (hu : u.response = some (.ok (.telem T))) :
    b.length ≤ s.params.maxInLen ∧ accepted b ∧ T = recordOf s.params.respLayout fun k => b.getD k 0 := by
  obtain hbuf | hbuf := Nat.lt_or_ge s.params.maxInLen b.length
  · rw [exec, execDecode, presented_of_lt hbuf] at h
    cases h
  have hx := eq_ok_of_finish h hu
  simp only [bind_eq_ok] at hx
  obtain ⟨_, -, _, hchecked, T', htelem, hT⟩ := hx
  cases hT
  obtain ⟨hrecord, -⟩ := telemetryOf_eq_ok htelem
  exact ⟨hbuf, (checkResponse_eq_ok_iff_accepted b).mp hchecked, hrecord⟩

/-- Settles O41: each clause is one branch of the decision `checkResponse_eq`. -/
theorem decodeReportsTheFirstFailedCheck : Obligations.DecodeReportsTheFirstFailedCheck := by
  intro s b hbuf
  refine ⟨fun hlen => ?_, fun hlen hstart => ?_, fun hlen hstart hend => ?_, fun hlen hstart hend hsum => ?_⟩
  · exact exec_decode_of_raise hbuf (by rw [checkResponse_eq, if_pos hlen])
  · exact exec_decode_of_raise hbuf (by rw [checkResponse_eq, if_neg (not_not.mpr hlen), if_pos hstart])
  · exact exec_decode_of_raise hbuf (by
      rw [checkResponse_eq, if_neg (not_not.mpr hlen), if_neg (not_not.mpr hstart), if_pos hend])
  · exact exec_decode_of_raise hbuf (by
      rw [checkResponse_eq, if_neg (not_not.mpr hlen), if_neg (not_not.mpr hstart), if_neg (not_not.mpr hend)]
      exact if_pos hsum)

/-- Settles O42: the checks before the changed byte still pass, and a change away from both ends moves the sum by less than 256
and not by 0. -/
theorem decodeRejectsEveryOneByteChange : Obligations.DecodeRejectsEveryOneByteChange := by
  intro s u b T k v h hu hk hne
  obtain ⟨hbuf, hb, -⟩ := of_exec_decode_telem h hu
  have hsum := byteSum_of_accepted hb
  obtain ⟨hlen, hstart, hend, -⟩ := hb
  have hlen' : (b.set k v).length = 32 := by rw [List.length_set, hlen]
  obtain ⟨-, badStart, badEnd, badSum⟩ := decodeReportsTheFirstFailedCheck s (b.set k v) (by rwa [List.length_set])
  have hwritten : (b.set k v)[k]? = some v := List.getElem?_set_self (by omega)
  by_cases h0 : k = 0
  · subst h0
    exact badStart hlen' fun heq => hne (by rw [hstart, ← heq, hwritten])
  have hstart' : (b.set k v)[0]? = some 0xAA#8 := by rw [List.getElem?_set_ne h0, hstart]
  rw [if_neg h0]
  by_cases h31 : k = 31
  · subst h31
    exact badEnd hlen' hstart' fun heq => hne (by rw [hend, ← heq, hwritten])
  have hend' : (b.set k v)[31]? = some 0x55#8 := by rw [List.getElem?_set_ne h31, hend]
  rw [if_neg h31]
  exact badSum hlen' hstart' hend' (byteSum_set_mod_ne hsum (by omega) hne)

/-! ### The record -/

/-- The model's map of mode bytes is the table of 43_decoder.md R164. -/
theorem modeOfByte_eq_modeTable (x : Byte) : modeOfByte x = modeTable x := by
  decide +revert

/-- The model's map of fan bytes is the table of 43_decoder.md R165. -/
theorem fanOfByte_eq_fanTable (y : Byte) : fanOfByte y = fanTable y := by
  decide +revert

/-- The mode flags without the case split: the byte 0x88 is VENT and no other flag (43_decoder.md R167). -/
theorem modeFlagsOf_eq (m : Byte) :
    modeFlagsOf m =
      { eco := decide (m ≠ 0x88#8) && m.getLsbD 0
        auxHeat := decide (m ≠ 0x88#8) && m.getLsbD 1
        swing := decide (m ≠ 0x88#8) && m.getLsbD 2
        vent := decide (m = 0x88#8) } := by
  by_cases hvent : m = 0x88#8
  · simp [modeFlagsOf, hvent]
  · simp [modeFlagsOf, hvent]

/-- Settles O40: the record is `recordOf`, whose maps are the spec's tables and whose 16-bit fields are low byte first. -/
theorem decodeAnswersTheRecord : Obligations.DecodeAnswersTheRecord := by
  intro s b hrl hbuf hb
  refine ⟨_, exec_decode_of_accepted hrl hbuf hb, ?_⟩
  intro rl g
  have mode_flags : modeFlagsOf (g rl.modeFlags) = _ := modeFlagsOf_eq _
  exact
    ⟨rfl, rfl, rfl, rfl, modeOfByte_eq_modeTable _, fanOfByte_eq_fanTable _, rfl, rfl, rfl, rfl, rfl, rfl, rfl, rfl, rfl, rfl,
     congrArg ModeFlags.vent mode_flags, congrArg ModeFlags.eco mode_flags, congrArg ModeFlags.auxHeat mode_flags,
     congrArg ModeFlags.swing mode_flags, rfl, rfl, rfl, halfOfBytes_toNat _ _, halfOfBytes_toNat _ _, rfl⟩

/-- The record depends only on the bytes at the indices its layout names. -/
theorem recordOf_congr {rl : RespLayout} {g g' : Nat → Byte}
    (h : ∀ k ∈ currentReadingIndex :: respIndices rl, g k = g' k) : recordOf rl g = recordOf rl g' := by
  simp only [respIndices, List.forall_mem_cons] at h
  simp only [recordOf, h]

/-- Settles O43: each record is `recordOf` of its buffer, and a field of `recordOf` is a function of its own bytes. -/
theorem eachFieldDependsOnItsOwnBytes : Obligations.EachFieldDependsOnItsOwnBytes := by
  intro s u u' b b' T T' h hu h' hu' rl same
  obtain ⟨-, -, rfl⟩ := of_exec_decode_telem h hu
  obtain ⟨-, -, rfl⟩ := of_exec_decode_telem h' hu'
  have byte {k : Nat} (hk : same k) : b.getD k 0 = b'.getD k 0 := by
    rw [List.getD_eq_getElem?_getD, List.getD_eq_getElem?_getD, hk]
  have via {α : Type} {k : Nat} (f : Byte → α) (hk : same k) : f (b.getD k 0) = f (b'.getD k 0) := congrArg f (byte hk)
  exact
    ⟨byte,
     fun hk => ⟨byte hk, via extTempSensorFlag hk, via swingSupportedFlag hk⟩,
     via modeOfByte, via fanOfByte, byte, byte, byte, byte, byte,
     fun hk => ⟨byte hk, via currentMeasuredFlag hk⟩,
     byte, byte,
     fun hk =>
       have hflags := via modeFlagsOf hk
       ⟨byte hk, congrArg ModeFlags.eco hflags, congrArg ModeFlags.auxHeat hflags, congrArg ModeFlags.swing hflags,
         congrArg ModeFlags.vent hflags⟩,
     fun hk => ⟨byte hk, via waterPumpFlag hk, via waterLockFlag hk⟩,
     fun hlo hhi => congrArg₂ halfOfBytes (byte hlo) (byte hhi),
     fun hlo hhi => congrArg₂ halfOfBytes (byte hlo) (byte hhi),
     byte,
     fun hall => recordOf_congr fun k hk => byte (hall k hk)⟩

end Sys2Proof.Machine
end

section
/-! A request leaves nothing behind (60_exceptions.md R202): all it changes is the response port, which no request reads and
every answer replaces. -/

namespace Sys2Proof.Machine

open Sys2Proof

/-- The end of a request hides the response before it. -/
theorem finish_answer (s : State) (resp : Response) (x : Except Stop Payload) : finish (s.answer resp) x = finish s x := by
  match x with
  | .ok _ => rfl
  | .error (.raise _) => rfl
  | .error (.fault _) => rfl
  | .error (.refuse _) => rfl

/-- A request is served, or stops, with an earlier response on the port as it does without it. -/
theorem serveRequest_answer (r : Request) (s : State) (resp : Response) :
    serveRequest r (s.answer resp) = serveRequest r s := by
  obtain ⟨x, hx⟩ := serveRequest_eq_finish r s
  calc serveRequest r (s.answer resp) = finish (s.answer resp) x := hx _ rfl rfl
    _ = finish s x := finish_answer s resp x
    _ = serveRequest r s := (hx s rfl rfl).symm

/-- What a step that serves a request leaves: the later inputs, and one response on the port. -/
theorem eq_answer_of_step_request {s t : State} {r : Request} {rest : List HostInput} (hin : s.inputs = .request r :: rest)
    (h : step s = .next t) : ∃ resp : Response, t = State.answer { s with inputs := rest } resp := by
  rw [step_of_cons hin, serveInput] at h
  obtain ⟨resp, -, hagree⟩ := serveRequest_next_agree h
  have hnext := h.symm.trans (hagree { s with inputs := rest } rfl rfl)
  injection hnext with ht
  exact ⟨resp, ht⟩

/-- Settles O13: the first request leaves only its response, and `serveRequest_answer` says that the second does not see it. -/
theorem requestsLeaveNothingBehind : Obligations.RequestsLeaveNothingBehind := by
  intro s t r₁ r₂ rest hin h
  obtain ⟨resp, rfl⟩ := eq_answer_of_step_request hin h
  refine ⟨rfl, ?_⟩
  rw [step_of_cons (rest := rest) rfl, step_of_cons (rest := rest) rfl]
  exact serveRequest_answer r₂ { s with inputs := rest } resp

end Sys2Proof.Machine
end

section
/-! The registers change by a reset alone (70_reset_and_hazards.md R235): the frame of a step, by the oldest input. -/

namespace Sys2Proof.Machine

open Sys2Proof

/-- What a step that serves a reset leaves: its parameters in the registers, the later inputs, and no response. -/
theorem eq_loadReset_of_step_reset {s t : State} {during : Option Request} {p : ResetParams} {rest : List HostInput}
    (hin : s.inputs = .reset during p :: rest) (h : step s = .next t) : t = loadReset p { s with inputs := rest } := by
  rw [step_of_cons hin, serveInput] at h
  injection h with h
  exact h.symm

/-- Settles O10, by the oldest input: waiting changes nothing, a request changes only the response port
(`eq_answer_of_step_request`), and a reset loads the registers and leaves the machine's parameters. -/
theorem registersChangeOnlyByReset : Obligations.RegistersChangeOnlyByReset := by
  intro s t h
  match hin : s.inputs with
  | [] =>
    rw [step_of_nil hin] at h
    injection h with h
    subst h
    exact ⟨rfl, fun hne => absurd rfl hne⟩
  | .request r :: rest =>
    obtain ⟨resp, rfl⟩ := eq_answer_of_step_request hin h
    exact ⟨rfl, fun hne => absurd rfl hne⟩
  | .reset during p :: rest =>
    obtain rfl := eq_loadReset_of_step_reset hin h
    exact ⟨rfl, fun _ => ⟨during, p, rest, rfl, rfl⟩⟩

end Sys2Proof.Machine
end

section
/-! Decoding and encoding (30_encoding.md R60 to R64): the operation of each legal word, and the request of each operation. -/

namespace Sys2Proof

open Sys2Proof.Claims

/-! ### The operation of each word -/

theorem reqOp_append (field op : BitVec 4) : reqOp (field ++ op) = op := by
  decide +revert

theorem reqField_append (field op : BitVec 4) : reqField (field ++ op) = field := by
  decide +revert

theorem reqField_append_reqOp (req : BitVec 8) : reqField req ++ reqOp req = req := by
  decide +revert

theorem decode_encq (m f : BitVec 3) (t : BitVec 16) (buf : List Byte) :
    decode ⟨0x00#8, m, f, t, buf⟩ = .ok .encq := by
  simp [decode, reqOp, reqField]

theorem decode_encset (m f : BitVec 3) (t : BitVec 16) (buf : List Byte) :
    decode ⟨0x01#8, m, f, t, buf⟩ = .ok (.encset m f t) := by
  simp [decode, reqOp, reqField]

theorem decode_enclock (m f : BitVec 3) (t : BitVec 16) (buf : List Byte) :
    decode ⟨0x02#8, m, f, t, buf⟩ = .ok (.enclock m f t) := by
  simp [decode, reqOp, reqField]

theorem decode_encunlock (m f : BitVec 3) (t : BitVec 16) (buf : List Byte) :
    decode ⟨0x03#8, m, f, t, buf⟩ = .ok (.encunlock m f t) := by
  simp [decode, reqOp, reqField]

theorem decode_decode (m f : BitVec 3) (t : BitVec 16) (buf : List Byte) :
    decode ⟨0x04#8, m, f, t, buf⟩ = .ok (.decode buf) := by
  simp [decode, reqOp, reqField]

theorem decode_cksum (m f : BitVec 3) (t : BitVec 16) (buf : List Byte) :
    decode ⟨0x05#8, m, f, t, buf⟩ = .ok (.cksum buf) := by
  simp [decode, reqOp, reqField]

theorem decode_verify (m f : BitVec 3) (t : BitVec 16) (buf : List Byte) :
    decode ⟨0x06#8, m, f, t, buf⟩ = .ok (.verify buf) := by
  simp [decode, reqOp, reqField]

theorem decode_offsetof (field : BitVec 4) (m f : BitVec 3) (t : BitVec 16) (buf : List Byte) :
    decode ⟨field ++ 0x7#4, m, f, t, buf⟩ = .ok (.offsetof field) := by
  simp [decode, reqOp_append, reqField_append]

/-- Every operation is read back from its own encoding. -/
theorem decode_encode (i : Instr) : decode (encode i) = .ok i := by
  cases i with
  | encq => exact decode_encq ..
  | encset mode fan t => exact decode_encset ..
  | enclock mode fan t => exact decode_enclock ..
  | encunlock mode fan t => exact decode_encunlock ..
  | decode buf => exact decode_decode ..
  | cksum buf => exact decode_cksum ..
  | verify buf => exact decode_verify ..
  | offsetof field => exact decode_offsetof ..

/-! ### The words an operation is read from -/

/-- With `FIELD` zero the request word is its `OP`. -/
theorem req_eq_of_fieldNumber_eq_zero {r : Request} (hfield : fieldNumber r = 0) :
    r.req = BitVec.ofNat 8 (opNumber r) := by
  apply BitVec.eq_of_toNat_eq
  rw [BitVec.toNat_ofNat]
  unfold fieldNumber at hfield
  unfold opNumber
  omega

theorem req_eq_of_opNumber_eq_seven {r : Request} (hop : opNumber r = 7) : r.req = reqField r.req ++ 0x7#4 := by
  rw [← (reqOp_eq_seven_iff r).mpr hop, reqField_append_reqOp]

/-- The words R63 does not call illegal, as numbers. -/
theorem legal_of_decode {r : Request} {i : Instr} (h : decode r = .ok i) :
    opNumber r < 8 ∧ (opNumber r ≤ 6 → fieldNumber r = 0) := by
  refine ⟨?_, fun hop => ?_⟩
  · by_contra hge
    rw [decode_of_reservedOp (Nat.not_lt.mp hge)] at h
    cases h
  · by_contra hne
    rw [decode_of_strayField hop hne] at h
    cases h

/-- What a decoded request can be: a word of 30_encoding.md R61, with the operation that keeps the inputs listed for it. -/
theorem decode_cases {r : Request} {i : Instr} (h : decode r = .ok i) :
    (r.req = 0x00#8 ∧ i = .encq)
    ∨ (r.req = 0x01#8 ∧ i = .encset r.opdMode r.opdFan r.opdSetpoint)
    ∨ (r.req = 0x02#8 ∧ i = .enclock r.opdMode r.opdFan r.opdSetpoint)
    ∨ (r.req = 0x03#8 ∧ i = .encunlock r.opdMode r.opdFan r.opdSetpoint)
    ∨ (r.req = 0x04#8 ∧ i = .decode r.inBuf)
    ∨ (r.req = 0x05#8 ∧ i = .cksum r.inBuf)
    ∨ (r.req = 0x06#8 ∧ i = .verify r.inBuf)
    ∨ (r.req = reqField r.req ++ 0x7#4 ∧ i = .offsetof (reqField r.req)) := by
  obtain ⟨hop, hfield⟩ := legal_of_decode h
  obtain h7 | h7 : opNumber r = 7 ∨ opNumber r ≤ 6 := by omega
  · have hword := req_eq_of_opNumber_eq_seven h7
    obtain ⟨req, m, f, t, buf⟩ := r
    dsimp only at hword ⊢
    rw [hword, decode_offsetof] at h
    cases h
    simp [← hword]
  · have hword := req_eq_of_fieldNumber_eq_zero (hfield h7)
    obtain ⟨req, m, f, t, buf⟩ := r
    generalize opNumber _ = op at hword h7
    dsimp only at hword
    subst hword
    interval_cases op <;>
      simp_all [decode_encq, decode_encset, decode_enclock, decode_encunlock, decode_decode, decode_cksum, decode_verify]

/-- Settles O5: encoding is read back by the operation, and a legal word is the one its operation's encoding has. -/
theorem decodeInvertsEncode : Obligations.DecodeInvertsEncode := by
  refine ⟨decode_encode, fun r i h => ?_⟩
  obtain ⟨hreq, rfl⟩ | ⟨hreq, rfl⟩ | ⟨hreq, rfl⟩ | ⟨hreq, rfl⟩ | ⟨hreq, rfl⟩ | ⟨hreq, rfl⟩ | ⟨hreq, rfl⟩ | ⟨hreq, rfl⟩ :=
    decode_cases h
  iterate 7 simp [encode, bareRequest, commandRequest, bufferRequest, opNumber, hreq]
  have hop : opNumber r = 7 := by rw [← reqOp_toNat, hreq, reqOp_append]; rfl
  simp [encode, bareRequest, hop, ← hreq]

/-- Settles O1: the eleven words evaluated. -/
theorem specWordsDecode : Obligations.SpecWordsDecode := by
  unfold Obligations.SpecWordsDecode
  decide

end Sys2Proof
end

section
/-! The steps on an input of each kind: a decoded request, a placed table word, a reset, and none. -/

namespace Sys2Proof.Machine

open Sys2Proof

/-- Settles O2: this is `step_of_decoded`. -/
theorem stepRunsTheDecodedRequest : Obligations.StepRunsTheDecodedRequest :=
  fun _ _ _ _ hin hd => step_of_decoded hin hd

theorem decode_of_decodeTableWord {nbits w : Nat} {i : Instr} (h : decodeTableWord nbits w = some i) :
    decode (tableRequest w) = .ok i := by
  unfold decodeTableWord at h
  split_ifs at h
  split at h
  · cases h; assumption
  · cases h

/-- Settles O3: the placed word is the oldest input, with the state's own inputs behind it. -/
theorem placedTableWordRunsNext : Obligations.PlacedTableWordRunsNext := by
  intro s w i h
  have hin : (s.withFetchWord 8 w).inputs = .request (tableRequest w) :: s.inputs := rfl
  rw [step_of_decoded hin (decode_of_decodeTableWord h)]
  rfl

/-- Settles O4: this is `step_of_nil`. -/
theorem idleBlockWaits : Obligations.IdleBlockWaits :=
  fun _ hin => step_of_nil hin

/-- Settles O8: the three fields of `State.reset` evaluated. -/
theorem resetSelectsVariantA : Obligations.ResetSelectsVariantA := ⟨rfl, rfl, rfl⟩

/-- Settles O9: a step on a reset is `loadReset` on the state with that input taken. -/
theorem resetLoadsTheRegisters : Obligations.ResetLoadsTheRegisters := by
  intro s during p rest hin
  rw [step_of_cons hin]
  rfl

end Sys2Proof.Machine
end

section
/-! What an operation changes, and when it stops. -/

namespace Sys2Proof.Machine

open Sys2Proof

/-! ### The frame of an operation -/

theorem eq_answer_of_exec {i : Instr} {s t : State} (h : exec i s = .next t) : ∃ resp : Response, t = s.answer resp := by
  obtain ⟨x, hx⟩ := exec_eq_finish i s
  rw [hx s rfl rfl] at h
  obtain ⟨p, -, ht⟩ | ⟨k, -, ht⟩ := finish_eq_next h
  · exact ⟨.ok p, ht⟩
  · exact ⟨.err k, ht⟩

/-- Settles O11: every operation ends through `finish`, which writes the response port alone. -/
theorem operationsChangeOnlyTheResponse : Obligations.OperationsChangeOnlyTheResponse :=
  fun _ _ _ h => eq_answer_of_exec h

/-! ### Stops -/

/-- An operation that cannot be presented is one of the three that read the buffer, and refuses it
(92_eei_decisions.md D23). -/
theorem exec_of_not_wellFormed {i : Instr} {s : State} (hi : i.wellFormed s.params.maxInLen = false) :
    exec i s = .refused .inputTooLong := by
  cases i with
  | encq | encset | enclock | encunlock | offsetof => cases hi
  | decode buf =>
    have hbuf : s.params.maxInLen < buf.length := Nat.not_le.mp (of_decide_eq_false hi)
    rw [exec, execDecode, presented_of_lt hbuf]; rfl
  | cksum buf =>
    have hbuf : s.params.maxInLen < buf.length := Nat.not_le.mp (of_decide_eq_false hi)
    rw [exec, execCksum, presented_of_lt hbuf]; rfl
  | verify buf =>
    have hbuf : s.params.maxInLen < buf.length := Nat.not_le.mp (of_decide_eq_false hi)
    rw [exec, execVerify, presented_of_lt hbuf]; rfl

/-- Settles O18: none of the three operations on an overlong buffer can be presented. -/
theorem overlongBufferIsRefused : Obligations.OverlongBufferIsRefused := by
  intro s buf hbuf i hi
  have hlong : decide (buf.length ≤ s.params.maxInLen) = false := decide_eq_false (Nat.not_le.mpr hbuf)
  simp only [List.mem_cons, List.not_mem_nil, or_false] at hi
  obtain rfl | rfl | rfl := hi <;> exact exec_of_not_wellFormed hlong

/-- Settles O17: an operation that can be presented answers (`exec_next`), and the others refuse. -/
theorem onlyOverlongBuffersStop : Obligations.OnlyOverlongBuffersStop := by
  intro i s hrl
  cases hi : i.wellFormed s.params.maxInLen with
  | true =>
    obtain ⟨t, ht⟩ := exec_next hrl hi
    simp [ht]
  | false =>
    rw [exec_of_not_wellFormed hi]
    refine ⟨fun x => nofun, fun x hx => ?_⟩
    cases hx
    exact ⟨rfl, rfl⟩

end Sys2Proof.Machine
end

section
/-! The invariant (42_encoder.md R141, 00_scope.md R9): every step answers, and answers a state that meets it. -/

namespace Sys2Proof.Machine

open Sys2Proof

/-! ### The invariant under the updates of a step -/

theorem Inv_of_tail {s : State} {x : HostInput} {rest : List HostInput} (hin : s.inputs = x :: rest) (hs : s.Inv) :
    State.Inv { s with inputs := rest } := by
  obtain ⟨hparams, hinputs, hport⟩ := hs
  rw [hin] at hinputs
  exact ⟨hparams, (List.forall_mem_cons.mp hinputs).2, hport⟩

/-- Of a new response the invariant asks that its frame, if it carries one, is valid. -/
theorem Inv_answer {s : State} {resp : Response} (hs : s.Inv) (hport : portOk (some resp) = true) :
    (s.answer resp).Inv := by
  obtain ⟨hparams, hinputs, -⟩ := hs
  exact ⟨hparams, hinputs, hport⟩

theorem Inv_loadReset {s : State} (p : ResetParams) (hs : s.Inv) : (loadReset p s).Inv := by
  obtain ⟨hparams, hinputs, -⟩ := hs
  exact ⟨hparams, hinputs, rfl⟩

theorem portOk_of_exec {i : Instr} {s t : State} (h : exec i s = .next t) : portOk t.response = true := by
  match ht : t.response with
  | none => rfl
  | some (.err _) => rfl
  | some (.ok (.byte _)) => rfl
  | some (.ok (.bool _)) => rfl
  | some (.ok (.telem _)) => rfl
  | some (.ok (.frame f)) => exact frameValid_of_exec h ht

theorem Inv_exec {i : Instr} {s t : State} (hs : s.Inv) (h : exec i s = .next t) : t.Inv := by
  have hport := portOk_of_exec h
  obtain ⟨resp, rfl⟩ := eq_answer_of_exec h
  exact Inv_answer hs hport

/-! ### The statements -/

/-- Settles O14: the default parameters are legal, and both ports are empty. -/
theorem resetMeetsTheInvariant : Obligations.ResetMeetsTheInvariant :=
  ⟨by decide, nofun, rfl⟩

/-- Settles O15, by what a step can do. -/
theorem stepKeepsTheInvariant : Obligations.StepKeepsTheInvariant := by
  intro s t hs h
  obtain ⟨-, rfl⟩ | ⟨r, rest, i, hin, -, hexec⟩ | ⟨r, rest, e, hin, -, rfl⟩ | ⟨during, p, rest, hin, rfl⟩ := step_cases h
  · exact hs
  · exact Inv_exec (Inv_of_tail hin hs) hexec
  · exact Inv_answer (Inv_of_tail hin hs) rfl
  · exact Inv_loadReset p (Inv_of_tail hin hs)

/-- Settles O16, by the oldest input: a presentable request is answered under a legal layout, and waiting and a reset never
stop. -/
theorem stepNeverStops : Obligations.StepNeverStops := by
  rintro s ⟨hparams, hinputs, -⟩
  obtain ⟨hrl, -⟩ := Bool.and_eq_true_iff.mp hparams
  match hin : s.inputs with
  | [] => exact ⟨s, step_of_nil hin⟩
  | .request r :: rest =>
    have hbuf : r.inBuf.length ≤ s.params.maxInLen := of_decide_eq_true (hinputs (.request r) (by simp [hin]))
    exact ⟨_, step_eq_blockResponse hrl hbuf hin⟩
  | .reset during p :: rest => exact ⟨_, step_of_cons hin⟩

end Sys2Proof.Machine
end

section
/-! Responses (60_exceptions.md R200, 10_state.md R29): the status numbers, and the error kinds and payloads of each
operation. -/

namespace Sys2Proof.Machine

open Sys2Proof Sys2Proof.Claims

/-! ### The status and the ports -/

theorem status_le_nine (r : Response) : r.status.toNat ≤ 9 := by
  cases r with
  | ok p => exact Nat.zero_le 9
  | err k => cases k <;> decide

theorem payloadPorts_err (k : ErrKind) : payloadPorts (.err k) = (none, none, none, none) := rfl

/-- Settles O19: a status other than 0 is an error's, which has no payload. -/
theorem statusNumbersAndPayloadPorts : Obligations.StatusNumbersAndPayloadPorts := by
  refine ⟨fun _ => rfl, rfl, status_le_nine, fun _ => rfl, fun _ => rfl, fun _ => rfl, fun _ => rfl, fun r hr => ?_⟩
  cases r with
  | ok p => exact absurd rfl hr
  | err k => exact payloadPorts_err k

/-! ### Error kinds -/

/-- Settles O20: the kinds are those `raisedBy` lists. -/
theorem errorKindsBelongToTheirOperations : Obligations.ErrorKindsBelongToTheirOperations := by
  intro i s t k h ht
  have hk : k ∈ raisedBy i := mem_raisedBy_of_exec h ht
  cases i with
  | encq | cksum => exact List.not_mem_nil hk
  | encset | enclock | encunlock | decode => exact hk
  | verify | offsetof => exact List.mem_singleton.mp hk

/-! ### Payloads -/

/-- Every payload the computation answers has the property. -/
def Yields (P : Payload → Prop) (x : Except Stop Payload) : Prop :=
  ∀ p, x = .ok p → P p

theorem Yields.ok {P : Payload → Prop} {p : Payload} (hp : P p) : Yields P (.ok p) := by
  intro q h
  cases h
  exact hp

theorem Yields.raise {P : Payload → Prop} (k : ErrKind) : Yields P (raise k) := by
  intro p h
  cases h

theorem Yields.bind {α : Type} {P : Payload → Prop} {x : Except Stop α} {f : α → Except Stop Payload}
    (hf : ∀ a, Yields P (f a)) : Yields P (x >>= f) := by
  intro p h
  obtain ⟨a, -, ha⟩ := bind_eq_ok.mp h
  exact hf a p ha

/-- The payload a request ends with is one its computation answers. -/
theorem of_finish_ok {P : Payload → Prop} {x : Except Stop Payload} {s t : State} {p : Payload} (h : finish s x = .next t)
    (ht : t.response = some (.ok p)) (hx : Yields P x) : P p :=
  hx p (eq_ok_of_finish h ht)

/-- A command or query frame as a payload (10_state.md R29). -/
def IsFrame (p : Payload) : Prop := ∃ f : List Byte, p = .frame f ∧ f.length = 16

theorem length_builtFrame (v : Variant) (ct mb fb tb : Byte) : (builtFrame v ct mb fb tb).length = 16 := by
  cases v <;> rfl

theorem buildCmd_yields_frame (cfg : Cfg) (ct : CommandType) (mode fan : BitVec 3) (t : BitVec 16) :
    Yields IsFrame (buildCmd cfg ct mode fan t) := by
  obtain ⟨_, _, _, -, -, -, h⟩ | ⟨-, h⟩ | ⟨-, -, h⟩ | ⟨-, -, -, h⟩ := buildCmd_cases cfg ct mode fan t
  · rw [h]; exact .ok ⟨_, rfl, length_builtFrame ..⟩
  · rw [h]; exact .raise _
  · rw [h]; exact .raise _
  · rw [h]; exact .raise _

/-- Settles O21, by the last step of each operation's computation. -/
theorem payloadsBelongToTheirOperations : Obligations.PayloadsBelongToTheirOperations := by
  intro i s t p h ht
  cases i with
  | encq =>
    rw [exec, execEncq, wholeFrame_queryWrites] at h
    exact of_finish_ok (P := IsFrame) h ht (.ok ⟨_, rfl, rfl⟩)
  | encset mode fan setpoint => exact of_finish_ok h ht (buildCmd_yields_frame s.cfg .set mode fan setpoint)
  | enclock mode fan setpoint => exact of_finish_ok h ht (buildCmd_yields_frame s.cfg .lock mode fan setpoint)
  | encunlock mode fan setpoint => exact of_finish_ok h ht (buildCmd_yields_frame s.cfg .unlock mode fan setpoint)
  | decode buf =>
    exact of_finish_ok (P := fun p => ∃ T, p = .telem T) h ht
      (.bind fun _ => .bind fun _ => .bind fun T => .ok ⟨T, rfl⟩)
  | cksum buf => exact of_finish_ok (P := fun p => ∃ b, p = .byte b) h ht (.bind fun _ => .ok ⟨_, rfl⟩)
  | verify buf =>
    refine of_finish_ok (P := fun p => ∃ b, p = .bool b) h ht (.bind fun _ => ?_)
    split
    · exact .raise _
    · exact .bind fun _ => .ok ⟨_, rfl⟩
  | offsetof field =>
    refine of_finish_ok (P := fun p => ∃ b, p = .byte b) h ht ?_
    split
    · exact .raise _
    · split
      · exact .raise _
      · exact .ok ⟨_, rfl⟩

end Sys2Proof.Machine
end

section
/-! The checksum codec, continued (40_checksum.md): the order of the bytes, the tests of `VERIFY`, and the first form of R102. -/

namespace Sys2Proof.Machine

open Sys2Proof Sys2Proof.Claims

theorem byteSum_perm {bs bs' : List Byte} (h : bs.Perm bs') : byteSum bs = byteSum bs' :=
  (h.map BitVec.toNat).sum_eq

theorem ck8_perm {bs bs' : List Byte} (h : bs.Perm bs') : ck8 bs = ck8 bs' := by
  rw [ck8, ck8, byteSum_perm h]

theorem presented_perm {bs bs' : List Byte} (s : State) (h : bs.Perm bs') : presented s bs = presented s bs' := by
  rw [presented, presented, h.length_eq]

/-- Settles O24: `CKSUM` uses the length and the sum, which no order changes. -/
theorem cksumIgnoresByteOrder : Obligations.CksumIgnoresByteOrder := by
  intro s buf buf' h
  rw [exec, exec, execCksum, execCksum, presented_perm s h, ck8_perm h]

/-- Settles O25: `exec_verify` by the second form of R102, its sum the spec's `total`. -/
theorem verifyTestsTheSumOfAllBytes : Obligations.VerifyTestsTheSumOfAllBytes :=
  fun _ _ hbuf hlen => exec_verify hbuf hlen

/-- Settles O26: this is `exec_verify_of_lt_two`. -/
theorem verifyNeedsTwoBytes : Obligations.VerifyNeedsTwoBytes :=
  fun _ _ hbuf hlen => exec_verify_of_lt_two hbuf hlen

/-- What the checksum of a frame of three bytes or more covers: its ends and the bytes between them but its own. -/
theorem frameCk_eq_ck8_inner {f : List Byte} {a b : Byte} (hlen : 3 ≤ f.length) (ha : f[0]? = some a)
    (hb : f[f.length - 1]? = some b) : frameCk f = ck8 (a :: (f.drop 1).take (f.length - 3) ++ [b]) := by
  have hfirst : f.take (f.length - 2) = a :: (f.drop 1).take (f.length - 3) := by
    obtain ⟨n, hn⟩ : ∃ n, f.length = n + 3 := ⟨f.length - 3, by omega⟩
    rw [eq_take_cons_drop ha]
    simp [hn]
  have hlast : f.drop (f.length - 1) = [b] := by
    obtain ⟨hlt, rfl⟩ := List.getElem?_eq_some_iff.mp hb
    rw [List.drop_eq_getElem_cons hlt, List.drop_eq_nil_of_le (by omega)]
  rw [frameCk, hfirst, hlast]

/-- Settles O29: the start and end bytes add to 0xFF, so the rest of the sum is what the checksum negates. -/
theorem frameChecksumFromInnerBytes : Obligations.FrameChecksumFromInnerBytes := by
  intro f hlen hstart hend
  have htotal : total ((f.drop 1).take (f.length - 3)) = byteSum ((f.drop 1).take (f.length - 3)) := rfl
  rw [frameCk_eq_ck8_inner hlen hstart hend, ck8_toNat, htotal]
  generalize (f.drop 1).take (f.length - 3) = inner
  have hsum : byteSum (0xAA#8 :: inner ++ [0x55#8]) = 0xFF + byteSum inner := by
    simp only [byteSum_append, byteSum_cons, byteSum_nil, BitVec.reduceToNat]
    omega
  omega

end Sys2Proof.Machine
end

section
/-! The variant layout (41_layout.md R120, R121). -/

namespace Sys2Proof.Machine

open Sys2Proof Sys2Proof.Claims

/-- The index of a `FIELD` id under a variant, where the id names a field and the field has a mapping. -/
def indexOfId (v : BitVec 1) (field : BitVec 4) : Option Nat := (fieldOfId field).bind (layout (variantOf v))

theorem exec_offsetof_of_some {s : State} {field : BitVec 4} {k : Nat} (h : indexOfId s.cfg.variant field = some k) :
    exec (.offsetof field) s = .next (s.answer (.ok (.byte (BitVec.ofNat 8 k)))) := by
  obtain ⟨f, hf, hl⟩ := Option.bind_eq_some_iff.mp h
  simp only [exec, execOffsetof, hf, hl, finish_ok]

theorem exec_offsetof_of_none {s : State} {field : BitVec 4} (h : indexOfId s.cfg.variant field = none) :
    exec (.offsetof field) s = .next (s.answer (.err .unsupportedField)) := by
  cases hf : fieldOfId field with
  | none => simp only [exec, execOffsetof, hf, raise_eq, finish_raise]
  | some f =>
    have hl : layout (variantOf s.cfg.variant) f = none := by simpa [indexOfId, hf] using h
    simp only [exec, execOffsetof, hf, hl, raise_eq, finish_raise]

/-- The model's two tables, composed, are the spec's one. -/
theorem fieldOffsets_getElem? (v : BitVec 1) (field : BitVec 4) :
    (fieldOffsets v)[field.toNat]? = (indexOfId v field).map (BitVec.ofNat 8) := by
  decide +revert

/-- Settles O30, by whether the id has an index. -/
theorem offsetofFollowsTheVariantTable : Obligations.OffsetofFollowsTheVariantTable := by
  intro s field
  rw [fieldOffsets_getElem?]
  cases h : indexOfId s.cfg.variant field with
  | none => exact exec_offsetof_of_none h
  | some k => exact exec_offsetof_of_some h

end Sys2Proof.Machine
end

section
/-! The frame encoder's writes (42_encoder.md R132, 20_memory.md R42), and a crossed bound (10_state.md R25). -/

namespace Sys2Proof.Machine

open Sys2Proof Sys2Proof.Claims

/-- Where `BuildCmd`'s fifteen writes and the checksum's go: every index of the frame once. -/
theorem exists_commandWrites (v : Variant) (ct mb fb tb ck : Byte) :
    ∃ ws, commandWrites v ct mb fb tb = .ok ws ∧ ((ws ++ [checksumWrite ck]).map Prod.fst).Perm (List.range 16) := by
  cases v with
  | a =>
    refine ⟨_, rfl, ?_⟩
    change [0, 1, 2, 3, 4, 5, 7, 8, 9, 10, 11, 6, 12, 13, 15, 14].Perm (List.range 16)
    decide
  | b =>
    refine ⟨_, rfl, ?_⟩
    change [0, 1, 2, 3, 4, 5, 7, 8, 9, 10, 6, 11, 12, 13, 15, 14].Perm (List.range 16)
    decide

/-- What `BuildCmd`'s writes and the checksum's leave on an empty frame. -/
theorem wholeFrame_commandWrites {v : Variant} {ct mb fb tb : Byte} {ws : List Host.Cell} (ck : Byte)
    (hws : commandWrites v ct mb fb tb = .ok ws) :
    (do let out ← writeAll [] (ws ++ [checksumWrite ck]); wholeFrame out)
      = .ok (.frame ((commandCovered v ct mb fb tb).take 14 ++ [ck, 0x55])) := by
  have hfifteen : writeAll [] ws = .ok (unsignedFrame v ct mb fb tb) := by
    have hall := commandWrites_writeAll v ct mb fb tb
    rw [hws] at hall
    exact hall
  rw [writeAll_append, hfifteen]
  exact wholeFrame_unsignedFrame v ct mb fb tb ck

/-- Settles O39: the writes leave the command's frame when the checksum's carries `commandChecksum`. -/
theorem eachFrameIndexIsWrittenOnce : Obligations.EachFrameIndexIsWrittenOnce := by
  refine ⟨fun _ => rfl, by decide, fun s mode fan t mb fb hm hf ht c hc => ?_⟩
  obtain ⟨ws, hws, hperm⟩ := exists_commandWrites (variantOf s.cfg.variant) c.2 mb fb (t.extractLsb' 0 8)
    (commandChecksum s.cfg.variant c.2 mb fb (t.extractLsb' 0 8))
  refine ⟨ws, _, hws, ?_, hperm⟩
  rw [exec_command_of_table hc hm hf ht, wholeFrame_commandWrites _ hws, finish_ok, ← builtFrame_eq_commandFrame]
  rfl

/-- Settles O35: no setpoint lies between crossed bounds, and of the operand checks that one is left. -/
theorem emptyBoundRejectsEverySetpoint : Obligations.EmptyBoundRejectsEverySetpoint := by
  intro s mode fan t hcrossed hm hf c hc
  obtain ⟨-, -, hout⟩ := commandErrorsComeInOrder s mode fan t c hc
  exact hout hm hf (by omega)

end Sys2Proof.Machine
end

section
/-! The decoder's byte maps against the encoder's tables (43_decoder.md R164, R165). -/

namespace Sys2Proof.Machine

open Sys2Proof Sys2Proof.Claims

theorem modeOfByte_modeByte (m : KnownMode) : modeOfByte (modeByte m) = .known m := by
  cases m <;> rfl

theorem fanOfByte_fanByte (f : KnownFan) : fanOfByte (fanByte f) = .known f := by
  cases f <;> rfl

theorem modeByte_of_modeOfByte {x : Byte} {m : KnownMode} (h : modeOfByte x = .known m) : modeByte m = x := by
  rw [modeOfByte_eq_modeTable, modeTable] at h
  split_ifs at h <;> cases h <;> subst x <;> rfl

theorem fanByte_of_fanOfByte {y : Byte} {f : KnownFan} (h : fanOfByte y = .known f) : fanByte f = y := by
  rw [fanOfByte_eq_fanTable, fanTable] at h
  split_ifs at h <;> cases h <;> subst y <;> rfl

/-- Settles O45: each map and its table undo each other, and the codes' bytes are the spec's tables. -/
theorem modeAndFanMapsAreInverses : Obligations.ModeAndFanMapsAreInverses :=
  ⟨fun _ m => ⟨modeByte_of_modeOfByte, fun h => h ▸ modeOfByte_modeByte m⟩,
   fun _ f => ⟨fanByte_of_fanOfByte, fun h => h ▸ fanOfByte_fanByte f⟩,
   map_modeByte_modeOfCode, map_fanByte_fanOfCode⟩

end Sys2Proof.Machine
end

section
/-! Assembler lines (30_encoding.md R70, R71): the operands' codes by the spec's tables, and the request of each line. -/

namespace Sys2Proof

open Sys2Proof.Claims

/-! ### Operands -/

/-- A map given by a table is undefined off the table's keys. -/
theorem not_mem_keys_iff_eq_none {α β : Type} {table : List (α × β)} {f : α → Option β}
    (htable : ∀ a b, (a, b) ∈ table ↔ f a = some b) (a : α) : a ∉ table.map Prod.fst ↔ f a = none := by
  rw [Option.eq_none_iff_forall_ne_some]
  simp [htable]

theorem mem_modeCodes_iff (m : AsmMode) (c : BitVec 3) : (m, c) ∈ modeCodes ↔ m.code = some c := by
  cases m with
  | name m => cases m <;> decide +revert
  | unknownCode n => decide +revert

theorem mem_fanCodes_iff (f : AsmFan) (c : BitVec 3) : (f, c) ∈ fanCodes ↔ f.code = some c := by
  cases f with
  | name f => cases f <;> decide +revert
  | unknownCode n => decide +revert

theorem asmSetpoint_eq_none_iff (t : Int) : asmSetpoint t = none ↔ t < -32768 ∨ 32767 < t := by
  simp only [asmSetpoint, ite_eq_right_iff, reduceCtorEq, imp_false]
  omega

/-- A setpoint in range is encoded as itself. -/
theorem exists_asmSetpoint {t : Int} (hlo : -32768 ≤ t) (hhi : t ≤ 32767) :
    ∃ sp, asmSetpoint t = some sp ∧ sp.toInt = t :=
  ⟨_, if_pos ⟨hlo, hhi⟩, BitVec.toInt_ofInt_eq_self (by decide) (by omega) (by omega)⟩

/-- A `<field>` operand of the spec's table or a number up to 15 is encoded as its id. -/
theorem exists_fieldId {field : AsmField} {k : Nat} (h : (field, k) ∈ fieldIds ∨ (field = .number k ∧ k < 16)) :
    ∃ id, field.id = some id ∧ id.toNat = k := by
  obtain h | ⟨rfl, hk⟩ := h
  · simp only [fieldIds, List.mem_cons, Prod.mk.injEq, List.not_mem_nil, or_false] at h
    obtain ⟨rfl, rfl⟩ | ⟨rfl, rfl⟩ | ⟨rfl, rfl⟩ | ⟨rfl, rfl⟩ | ⟨rfl, rfl⟩ | ⟨rfl, rfl⟩ := h <;> exact ⟨_, rfl, rfl⟩
  · exact ⟨_, if_pos hk, by rw [BitVec.toNat_ofNat]; omega⟩

/-- The request word of `OFFSETOF` as a number. -/
theorem toNat_offsetofWord (id : BitVec 4) : (id ++ 0x7#4).toNat = 16 * id.toNat + 7 := by
  decide +revert

/-! ### Command lines -/

theorem asmCommand_of_some {req : BitVec 8} {m : AsmMode} {f : AsmFan} {t : Int} {mc fc : BitVec 3} {sp : BitVec 16}
    (hm : m.code = some mc) (hf : f.code = some fc) (ht : asmSetpoint t = some sp) :
    asmCommand req m f t = some (commandRequest req mc fc sp) := by
  simp only [asmCommand, hm, hf, ht]

theorem asmCommand_eq_none {req : BitVec 8} {m : AsmMode} {f : AsmFan} {t : Int}
    (h : m.code = none ∨ f.code = none ∨ asmSetpoint t = none) : asmCommand req m f t = none := by
  unfold asmCommand
  split
  · simp_all
  · rfl

/-- An accepted command line with the `REQ` of an operation gives that operation's encoding. -/
theorem eq_encode_of_asmCommand {req : BitVec 8} {op : BitVec 3 → BitVec 3 → BitVec 16 → Instr} {m : AsmMode} {f : AsmFan}
    {t : Int} {r : Request} (hop : ∀ mc fc sp, commandRequest req mc fc sp = encode (op mc fc sp))
    (h : asmCommand req m f t = some r) : ∃ i : Instr, r = encode i := by
  unfold asmCommand at h
  split at h
  · exact ⟨_, (Option.some.inj h).symm.trans (hop _ _ _)⟩
  · cases h

/-- The three command forms of R70 and the three expansions of R71 are assembled alike. -/
theorem assemble_commandLine {m : AsmMode} {f : AsmFan} {t : Int} {c : AsmLine × BitVec 8} (hc : c ∈ commandLines m f t) :
    assemble c.1 = asmCommand c.2 m f t := by
  simp only [commandLines, List.mem_cons, List.not_mem_nil, or_false] at hc
  obtain rfl | rfl | rfl | rfl | rfl | rfl := hc <;> rfl

/-! ### Every line -/

/-- What an accepted line gives: the encoding of an operation. -/
theorem eq_encode_of_assemble {l : AsmLine} {r : Request} (h : assemble l = some r) : ∃ i : Instr, r = encode i := by
  cases l with
  | encq => exact ⟨.encq, (Option.some.inj h).symm⟩
  | encset m f t => exact eq_encode_of_asmCommand (op := .encset) (fun _ _ _ => rfl) h
  | enclock m f t => exact eq_encode_of_asmCommand (op := .enclock) (fun _ _ _ => rfl) h
  | encunlock m f t => exact eq_encode_of_asmCommand (op := .encunlock) (fun _ _ _ => rfl) h
  | decode bytes => exact ⟨.decode bytes, (Option.some.inj h).symm⟩
  | cksum bytes => exact ⟨.cksum bytes, (Option.some.inj h).symm⟩
  | verify bytes => exact ⟨.verify bytes, (Option.some.inj h).symm⟩
  | offsetof field =>
    obtain ⟨id, -, hr⟩ := Option.map_eq_some_iff.mp h
    exact ⟨.offsetof id, hr.symm⟩
  | enccmd ct m f t =>
    cases ct with
    | query => cases h
    | set => exact eq_encode_of_asmCommand (op := .encset) (fun _ _ _ => rfl) h
    | lock => exact eq_encode_of_asmCommand (op := .enclock) (fun _ _ _ => rfl) h
    | unlock => exact eq_encode_of_asmCommand (op := .encunlock) (fun _ _ _ => rfl) h

/-- Settles O46: command lines are `asmCommand` of their operands' codes, and every accepted line is an encoding, which
decoding inverts. -/
theorem assembledLinesAreRequests : Obligations.AssembledLinesAreRequests := by
  refine ⟨rfl, ?commands, ?rejected, fun _ _ _ => rfl, ?buffers, ?fields, ?fieldRange, ?encodings⟩
  case commands =>
    intro m mc f fc t hm hf hlo hhi
    obtain ⟨sp, hsp, hval⟩ := exists_asmSetpoint hlo hhi
    refine ⟨sp, hval, fun c hc => ?_⟩
    rw [assemble_commandLine hc, asmCommand_of_some ((mem_modeCodes_iff m mc).mp hm) ((mem_fanCodes_iff f fc).mp hf) hsp]
    rfl
  case rejected =>
    intro m f t h c hc
    rw [not_mem_keys_iff_eq_none mem_modeCodes_iff, not_mem_keys_iff_eq_none mem_fanCodes_iff,
      ← asmSetpoint_eq_none_iff] at h
    rw [assemble_commandLine hc, asmCommand_eq_none h]
  case buffers =>
    intro bytes c hc
    simp only [List.mem_cons, List.not_mem_nil, or_false] at hc
    obtain rfl | rfl | rfl := hc <;> rfl
  case fields =>
    intro field k h
    obtain ⟨id, hid, rfl⟩ := exists_fieldId h
    exact ⟨_, toNat_offsetofWord id, by rw [assemble, hid]; rfl⟩
  case fieldRange =>
    intro n hn
    rw [assemble, AsmField.id, if_neg (Nat.not_lt.mpr hn)]
    rfl
  case encodings =>
    intro l r h
    obtain ⟨i, rfl⟩ := eq_encode_of_assemble h
    exact ⟨i, decode_encode i, rfl⟩

end Sys2Proof
end
